-- ==== Sys2Proof/Word.lean ====
section
/-! DEFINITION. The word types of the block, one name for each width the spec gives (`10_state.md` R10,
`30_encoding.md` R60 to R71). -/

namespace Sys2Proof

/-- A 32-bit word: a tagged sample (R71), the lost counter (R20), the response data (R23), one buffer slot (R40). -/
abbrev Word := BitVec 32

/-- A command word, format `CMD` (R60): `op` in bits 11:8, `arg` in bits 7:0. -/
abbrev CmdWord := BitVec 12

/-- The operand field `arg` of a command word (R60). -/
abbrev Arg := BitVec 8

/-- A gain/channel selection code (R70): 1, 2 or 3; 0 is never held. -/
abbrev Selection := BitVec 2

/-- The 24-bit reading, the width of the shift register `acc` (R12, R71). -/
abbrev Reading := BitVec 24

/-- The index of a slot of the ring buffer, the only address of the block (R40). -/
abbrev SlotIdx := BitVec 3

end Sys2Proof
end

