-- ==== Sys2Proof/Config.lean ====
section
/-! DEFINITION. What is fixed for this hardware (`00_scope.md` R5) and the free values: what the spec leaves open and
nothing in the model may decide (`93_implementation_defined.md` U1, U2, P1). -/

namespace Sys2Proof.Config

/-- `CAPACITY` (R5, decision D8): the number of slots of the ring buffer. DESIGN CHOICE (log entry 10; unsafe for a build
with another value): no parameter is kept. -/
@[simp] abbrev capacity : Nat := 8

/-- `DATA_BITS` (R5): the data pulses of one conversion. -/
@[simp] abbrev dataBits : Nat := 24

/-- `LOST_MAX` (R5): where the lost-sample counter saturates. -/
@[simp] abbrev lostMax : Word := 0xFFFFFFFF#32

/-- `GAIN_A128` (R5, R70): channel A gain 128, one extra pulse. -/
@[simp] abbrev gainA128 : Selection := 1#2

/-- `GAIN_B32` (R5, R70): channel B gain 32, two extra pulses. -/
@[simp] abbrev gainB32 : Selection := 2#2

/-- `GAIN_A64` (R5, R70): channel A gain 64, three extra pulses. -/
@[simp] abbrev gainA64 : Selection := 3#2

/-- `GAIN_DEFAULT` (R5): the chip's selection after power-up. -/
@[simp] abbrev gainDefault : Selection := gainA128

/-- FREE VALUE (R19, U1; log entry 2): what a slot of the buffer that no `push` has written reads as. -/
opaque freeSlot : SlotIdx → Word

/-- FREE VALUE (R11, U2; log entry 3): the level of `dout` in tick number `n`, where `State.inputs` lists none. -/
opaque freeDout : Nat → Bool

/-- FREE VALUE (R11; log entry 3): the level of `rst_n` in tick number `n`, where `State.inputs` lists none. -/
opaque freeRstN : Nat → Bool

/-- FREE VALUE (R11; log entry 3): `cmd_valid` in tick number `n`, where `State.inputs` lists none. -/
opaque freeCmdValid : Nat → Bool

/-- FREE VALUE (R11; log entry 3): `cmd_word` in tick number `n`, where `State.inputs` lists none. -/
opaque freeCmdWord : Nat → CmdWord

/-- `T_TICK` in nanoseconds (R5, R262, P1): open, a platform parameter; no rule of `step` uses it (log entry 9). DESIGN
CHOICE (log entry 17; unsafe for a period that is no whole number of nanoseconds): a natural number. -/
opaque tickNs : Nat

/-- The chip's minimum low time of the clock line in nanoseconds: a bound exists and the spec gives no figure
(R262, `91_not_in_source.md` N6; log entry 9). DESIGN CHOICE (log entry 17): a natural number, as `tickNs`. -/
opaque minLowNs : Nat

end Sys2Proof.Config
end

