-- ==== Sys2Proof/Syntax.lean ====
section
/-! DEFINITION. The operations of the block: one constructor per row of `spec/opcode_table.json`
(`30_encoding.md` R61, R64). -/

namespace Sys2Proof

/-- The operations. Every command carries the field `arg` of its word (R60), the ones that ignore it too (R67), so that
a word and its instruction say the same (DESIGN CHOICE, log entry 5; safe). `handler` is the one operation with no
command word (R64, R99). -/
inductive Instr where
  | init       (arg : Arg)
  | enable     (arg : Arg)
  | disable    (arg : Arg)
  | available  (arg : Arg)
  | read       (arg : Arg)
  | lost       (arg : Arg)
  | resetLost  (arg : Arg)
  | setGain    (sel : Arg)
  | powerDown  (arg : Arg)
  | powerUp    (arg : Arg)
  | reserved10 (arg : Arg)
  | reserved11 (arg : Arg)
  | reserved12 (arg : Arg)
  | reserved13 (arg : Arg)
  | reserved14 (arg : Arg)
  | reserved15 (arg : Arg)
  | handler
deriving DecidableEq, Repr

/-- The operand field of a command; `handler` has none. -/
def Instr.arg : Instr → Option Arg
  | .init a | .enable a | .disable a | .available a | .read a | .lost a | .resetLost a | .setGain a
  | .powerDown a | .powerUp a | .reserved10 a | .reserved11 a | .reserved12 a | .reserved13 a
  | .reserved14 a | .reserved15 a => some a
  | .handler => none

end Sys2Proof
end

