-- ==== Sys2Proof/Machine/State.lean ====
section
/-! DEFINITION. The state of the block as plain data (`10_state.md` R10), the inputs of a tick (R11), the state after
reset (`70_reset_and_hazards.md` R230), and the reasons a step can stop: there are none but the fixed name the host asks for. -/

namespace Sys2Proof.Machine

/-- `eng` (R10, R13): the position of the protocol engine in the bit-clock loop. -/
inductive Eng where
  | idle
  | high
  | low
deriving DecidableEq, Repr

/-- `origin` (R10, R13): which context started the conversion, `IRQ` = the handler, `FG` = the fallback of `READ`. -/
inductive Origin where
  | irq
  | fg
deriving DecidableEq, Repr

/-- The input ports of one tick (R11): `rst_n`, `dout`, `cmd_valid`, `cmd_word`. DEDUCED (log entry 12; unsafe for a build
with a synchroniser): `dout` is one clean bit per tick. -/
structure TickInput where
  rstN     : Bool
  dout     : Bool
  cmdValid : Bool
  cmdWord  : CmdWord
deriving DecidableEq, Repr

/-- The storage of the ring buffer (R19, R40): the slots a `push` has written, as (slot index, word) pairs, the indices
strictly rising; a slot that is not listed has no value (R19, log entry 2). The only addressable unit is the 32-bit word.
DEDUCED (log entry 1; safe). -/
abbrev Memory := List (Nat × Word)

/-- The whole state (R10: "Nothing else is state"), and after it two fields of the model's own: `inputs` and `tick`. -/
structure State where
  /-- The shift register of the protocol engine (R12). -/
  acc       : Reading
  /-- The level driven on the clock line (R14). -/
  sck       : Bool
  /-- The pending gain/channel selection (R15). -/
  pending   : Selection
  /-- The last-applied gain/channel selection (R16). -/
  last      : Selection
  /-- The index of the oldest occupied slot (R18). -/
  head      : SlotIdx
  /-- The number of occupied slots (R18). -/
  count     : BitVec 4
  /-- The storage of the ring buffer (R19). -/
  buf       : Memory
  /-- The lost-sample counter (R20). -/
  lost      : Word
  /-- The listening flag, the mask of the data-ready notification (R17). -/
  listening : Bool
  /-- The position in the bit-clock loop (R13). -/
  eng       : Eng
  /-- The number of the current pulse (R13). -/
  pulse     : BitVec 5
  /-- Who started the conversion (R13). -/
  origin    : Origin
  /-- The level of `dout` in the previous tick (R21). -/
  doutPrev  : Bool
  /-- A data-ready event has been seen and not yet dispatched (R22). -/
  evtPend   : Bool
  /-- The response strobe (R23). -/
  rspValid  : Bool
  /-- The response status (R23). -/
  rspOk     : Bool
  /-- The response data (R23). -/
  rspData   : Word
  /-- The MODEL's own (log entry 3): the inputs of the coming ticks, this tick's first. Past its end they are free. -/
  inputs    : List TickInput
  /-- The MODEL's own (log entry 3): how many ticks have gone by, the argument of the free inputs. -/
  tick      : Nat
deriving DecidableEq, Repr

/-- The block raises no exception, has no trap and no fault state (`60_exceptions.md` R200): nobody raises a fault, so
this type has no constructor. DEDUCED (log entry 14). Safe: there is nothing to raise. -/
inductive Fault where
deriving DecidableEq, Repr

/-- Reasons to give an instruction no meaning. -/
inductive Refusal where
  /-- An arm of `exec` whose instruction has no meaning yet raises it; every arm has one, so nobody does. Safe. -/
  | notModelled (mnemonic : String)
deriving DecidableEq, Repr

/-- What a meaning answers. -/
abbrev Result := Host.Outcome State Fault Refusal

/-- The state after hardware reset (R10, R230). `buf` lists nothing, its contents being unspecified (R19, R230); no
inputs are listed and no tick has gone by (log entry 3). -/
def State.reset : State where
  acc       := 0
  sck       := false
  pending   := Config.gainDefault
  last      := Config.gainDefault
  head      := 0
  count     := 0
  buf       := []
  lost      := 0
  listening := false
  eng       := .idle
  pulse     := 0
  origin    := .irq
  doutPrev  := true
  evtPend   := false
  rspValid  := false
  rspOk     := false
  rspData   := 0
  inputs    := []
  tick      := 0

end Sys2Proof.Machine
end

