-- ==== Sys2Proof/Machine/Operands.lean ====
section
/-! DEFINITION. Everything an operation reads: the inputs of a tick (R11), the operand of `SET_GAIN` (R62), the slot
addresses (R54), the bit entering the shift register (R93) and the tagged sample (R95). -/

namespace Sys2Proof.Machine

/-- The inputs of the tick `j` ticks from now (R11): the listed ones, and past the end of the list free values, which no
proof can see (U2, log entry 3). -/
def State.inputAt (s : State) (j : Nat) : TickInput :=
  match s.inputs.drop j with
  | i :: _ => i
  | [] =>
    { rstN := Config.freeRstN (s.tick + j), dout := Config.freeDout (s.tick + j),
      cmdValid := Config.freeCmdValid (s.tick + j), cmdWord := Config.freeCmdWord (s.tick + j) }

/-- The inputs of this tick. -/
def State.now (s : State) : TickInput := s.inputAt 0

/-- The operand of `SET_GAIN` as a selection: all eight bits are compared with the three legal codes (R62, R66, R141). -/
def selectionOf (sel : Arg) : Option Selection :=
  if sel = 1#8 ∨ sel = 2#8 ∨ sel = 3#8 then some (sel.extractLsb' 0 2) else none

/-- The number of pulses of a conversion, `24 + pending` (R73, R94), without loss. With `pending = 0`, which no run
reaches, there are 24: DESIGN CHOICE (log entry 6; unsafe in such states only). -/
abbrev pulsesOf (pending : Selection) : Nat := Config.dataBits + pending.toNat

/-- `(head + 1) mod CAPACITY` (R54, R123). -/
def nextSlot (i : SlotIdx) : SlotIdx := BitVec.ofNat 3 ((i.toNat + 1) % Config.capacity)

/-- The slot `k` places after the oldest: `(head + k) mod CAPACITY` (R120). -/
def State.windowSlot (s : State) (k : Nat) : SlotIdx := BitVec.ofNat 3 ((s.head.toNat + k) % Config.capacity)

/-- The write address of `push`: `(head + count) mod CAPACITY`, the sum formed without loss (R54, R121, R131). -/
def State.pushSlot (s : State) : SlotIdx := s.windowSlot s.count.toNat

/-- `{acc[22:0], dout}` (R93, R101): a left shift by one, the new bit in bit 0. -/
def shiftIn (acc : Reading) (bit : Bool) : Reading := acc.extractLsb' 0 23 ++ BitVec.ofBool bit

/-- The tagged sample `{tag, 0b000000, reading}` (R71, R72, R95). -/
def assembleSample (tag : Selection) (reading : Reading) : Word := tag ++ 0#6 ++ reading

/-- The sample of a conversion that finishes in this tick: the tag is `last`, not `pending` (R95). -/
def State.sample (s : State) : Word := assembleSample s.last s.acc

end Sys2Proof.Machine
end

