-- ==== Sys2Proof/Machine/Flags.lean ====
section
/-! DEFINITION. The status outputs (R11, R24) and the latch equation of the ready detector (R170 to R173). The block has
no condition codes and no arithmetic flags (R24). -/

namespace Sys2Proof.Machine

/-- Output `busy` (R11): `eng != IDLE`. -/
def State.busy (s : State) : Bool := decide (s.eng ≠ .idle)

/-- Output `ready` (R11, R170): `dout = 0` in this tick, whatever the state. -/
def State.ready (s : State) : Bool := !s.now.dout

/-- Output `notify_en` (R11, R172): `listening = 1 and eng = IDLE`. -/
def State.notifyEn (s : State) : Bool := s.listening && decide (s.eng = .idle)

/-- Output `cmd_ready` (R11, R185): `eng = IDLE and evt_pend = 0`. -/
def State.cmdReady (s : State) : Bool := decide (s.eng = .idle) && !s.evtPend

/-- The edge seen in this tick: `dout != dout_prev`, both directions (R171). -/
def State.edge (s : State) : Bool := s.now.dout != s.doutPrev

/-- `evt_pend` after the tick that takes `s` to `t` (R173). `t.evtPend` is `evt_pend and not dispatch`: of all
activities only `HANDLER` writes `evt_pend`, and it clears it (R206). -/
def evtPendNext (s t : State) : Bool := t.notifyEn && ((s.notifyEn && s.edge) || t.evtPend)

end Sys2Proof.Machine
end

