-- ==== Sys2Proof/Machine/Ops.lean ====
section
/-! DEFINITION. The named operations over the state: the buffer's storage (R40), the response registers (R186), the
buffer procedures `push` and `pop` (R121 to R126), the start and the return of a conversion (R92, R96), and the entry of
the one interrupt (R206), which stands where another hardware takes an exception: the block has none (R200). -/

namespace Sys2Proof.Machine

/-- What slot `a` holds: none where no `push` has written it (R19). -/
def Memory.read : Memory → Nat → Option Word
  | [], _ => none
  | (b, v) :: m, a => if a = b then some v else Memory.read m a

/-- `MemWrite(a, 4, v)` (R7, R40): replaces slot `a` whole, and keeps the indices strictly rising. -/
def Memory.write : Memory → Nat → Word → Memory
  | [], a, v => [(a, v)]
  | (b, w) :: m, a, v =>
    if a < b then (a, v) :: (b, w) :: m
    else if a = b then (a, v) :: m
    else (b, w) :: Memory.write m a v

/-- The canonical form: the indices strictly rise and each is a slot of the buffer (R40, R45). An unlisted slot reads as
no value, so no entry can equal what an unlisted slot reads as. -/
abbrev Memory.wf (m : Memory) : Prop := m.Pairwise (fun x y => x.1 < y.1) ∧ ∀ x ∈ m, x.1 < Config.capacity

/-- `MemRead(i, 4)` (R7, R40): the word of slot `i`; of a slot that no `push` has written, a free value (U1). -/
def State.slot (s : State) (i : SlotIdx) : Word := (s.buf.read i.toNat).getD (Config.freeSlot i)

/-- Writes the response registers (R23, R63, R186). -/
def State.respond (s : State) (ok : Bool) (data : Word) : State :=
  { s with rspValid := true, rspOk := ok, rspData := data }

/-- No response in this tick: all three registers to zero (R186). -/
def State.clearResponse (s : State) : State := { s with rspValid := false, rspOk := false, rspData := 0 }

/-- `sat_inc(v)` (R126): `v + 1`, and `LOST_MAX` stays. -/
def satInc (v : Word) : Word := if v = Config.lostMax then v else v + 1

/-- `push(sample)` (R121, R122). Not full: the sample is stored and counted. Full: nothing is stored, the oldest entry is
abandoned, a slot is freed and one event is counted (`90_conflicts.md` C1, reading A; log entry 10). A count above 8,
which no run reaches, counts as full: DESIGN CHOICE (log entry 6; unsafe in such states only). -/
def State.push (s : State) (sample : Word) : State :=
  if s.count.toNat < Config.capacity then
    { s with buf := s.buf.write s.pushSlot.toNat sample, count := s.count + 1 }
  else
    { s with head := nextSlot s.head, count := s.count - 1, lost := satInc s.lost }

/-- `pop()` (R123): none from an empty buffer; else the word at `head`, the entry removed and the slot not cleared. -/
def State.pop (s : State) : Option (Word × State) :=
  if s.count = 0 then none
  else some (s.slot s.head, { s with head := nextSlot s.head, count := s.count - 1 })

/-- `set_pending(selection)` (R141): any value but 1, 2, 3 is ignored. -/
def State.setPending (s : State) (sel : Arg) : State :=
  match selectionOf sel with
  | some g => { s with pending := g }
  | none => s

/-- `CONV_START(o)` (R92). -/
def State.convStart (s : State) (o : Origin) : State :=
  { s with acc := 0, pulse := 0, origin := o, sck := true, eng := .high }

/-- The entry of the interrupt (R206, R99): the event is consumed and, if the line is low, a conversion starts. Nothing
is saved and there is no vector. -/
def State.handlerEntry (s : State) : State :=
  let t := { s with evtPend := false }
  if s.now.dout then t else t.convStart .irq

/-- The return of a conversion of either origin (R96, R145, R207): the selection just sent becomes the tag of the next
sample and the engine is idle again; there is nothing to restore. -/
def State.convReturn (s : State) : State := { s with last := s.pending, eng := .idle }

end Sys2Proof.Machine
end

