-- ==== Sys2Proof/Machine/Buffer.lean ====
section
/-! DEFINITION. The commands that reach the ring buffer and the lost counter: `AVAILABLE`, `READ`, `LOST`, `RESET_LOST`
(`41_sample_ring_buffer.md` R127 to R130). Their field `arg` is ignored (R67). -/

namespace Sys2Proof.Machine

/-- `AVAILABLE` (R127, R124): answers `zext_32(count)`. -/
def execAvailable (_arg : Arg) (s : State) : Result := .next (s.respond true (s.count.setWidth 32))

/-- `READ` (R128): case 1 pops the oldest sample; case 2, an empty buffer and a low line, starts a conversion in the
foreground and answers when it finishes; case 3 has nothing to return. -/
def execRead (_arg : Arg) (s : State) : Result :=
  match s.pop with
  | some (v, t) => .next (t.respond true v)
  | none => if s.now.dout then .next (s.respond false 0) else .next (s.convStart .fg)

/-- `LOST` (R129): answers the lost-sample counter. -/
def execLost (_arg : Arg) (s : State) : Result := .next (s.respond true s.lost)

/-- `RESET_LOST` (R130): clears the counter; the old value is not returned. -/
def execResetLost (_arg : Arg) (s : State) : Result := .next (State.respond { s with lost := 0 } true 0)

end Sys2Proof.Machine
end

