-- ==== Sys2Proof/Machine/Gain.lean ====
section
/-! DEFINITION. The command of the gain/channel sequencer, `SET_GAIN` (`42_gain_channel_sequencer.md` R142). -/

namespace Sys2Proof.Machine

/-- `SET_GAIN sel` (R142): `set_pending(sel)`; the answer is the same for a valid and an invalid selection (R63). -/
def execSetGain (sel : Arg) (s : State) : Result := .next ((s.setPending sel).respond true 0)

end Sys2Proof.Machine
end

