-- ==== Sys2Proof/Machine/Interrupt.lean ====
section
/-! DEFINITION. `HANDLER`, the conversion handler of the interrupt context (`40_protocol_engine.md` R99). -/

namespace Sys2Proof.Machine

/-- `HANDLER` (R99, R206): the pending event is consumed; a low line starts a conversion for the interrupt context, a high
line means the transition was a rise, and nothing more happens. It does not look at `listening`. -/
def execHandler (s : State) : Result := .next s.handlerEntry

end Sys2Proof.Machine
end

