-- ==== Sys2Proof/Machine/Power.lean ====
section
/-! DEFINITION. The commands of power and interrupt control: `INIT`, `ENABLE`, `DISABLE`, `POWER_DOWN`, `POWER_UP`
(`43_power_interrupt_control.md` R150 to R157). Their field `arg` is ignored (R67). Where a rule says that `evt_pend`
becomes 0, the ready detector does it at the end of the tick (R173). -/

namespace Sys2Proof.Machine

/-- `INIT` (R150): the data model to its reset values; `sck` and `buf` are left as they are. -/
def execInit (_arg : Arg) (s : State) : Result :=
  .next (State.respond
    { s with listening := false, head := 0, count := 0, lost := 0, pending := Config.gainDefault,
             last := Config.gainDefault }
    true 0)

/-- `ENABLE` (R151): opens the mask; no event arises from the present level of `dout`. -/
def execEnable (_arg : Arg) (s : State) : Result := .next (State.respond { s with listening := true } true 0)

/-- `DISABLE` (R152): closes the mask; the chip's power state is unaffected. -/
def execDisable (_arg : Arg) (s : State) : Result := .next (State.respond { s with listening := false } true 0)

/-- `POWER_DOWN` (R156): raises the clock line and holds it. -/
def execPowerDown (_arg : Arg) (s : State) : Result := .next (State.respond { s with sck := true } true 0)

/-- `POWER_UP` (R157): lowers the clock line; if it was high before, `last` returns to the default selection. -/
def execPowerUp (_arg : Arg) (s : State) : Result :=
  .next (State.respond { s with last := if s.sck then Config.gainDefault else s.last, sck := false } true 0)

end Sys2Proof.Machine
end

