-- ==== Sys2Proof/Machine/Reserved.lean ====
section
/-! DEFINITION. The reserved opcodes 10 to 15 (`45_step_and_arbitration.md` R188, `30_encoding.md` R65): accepted like
any command, answered with `rsp_ok = 0`, no other change. DESIGN CHOICE (log entry 11; safe for this hardware): they are
modelled, where U4 would let a model refuse them. -/

namespace Sys2Proof.Machine

/-- The answer of every reserved opcode (R188). -/
def answerReserved (s : State) : Result := .next (s.respond false 0)

/-- Reserved opcode 10 (R188). -/
def execReserved10 (_arg : Arg) (s : State) : Result := answerReserved s

/-- Reserved opcode 11 (R188). -/
def execReserved11 (_arg : Arg) (s : State) : Result := answerReserved s

/-- Reserved opcode 12 (R188). -/
def execReserved12 (_arg : Arg) (s : State) : Result := answerReserved s

/-- Reserved opcode 13 (R188). -/
def execReserved13 (_arg : Arg) (s : State) : Result := answerReserved s

/-- Reserved opcode 14 (R188). -/
def execReserved14 (_arg : Arg) (s : State) : Result := answerReserved s

/-- Reserved opcode 15 (R188). -/
def execReserved15 (_arg : Arg) (s : State) : Result := answerReserved s

end Sys2Proof.Machine
end

