-- ==== Sys2Proof/Machine/Dispatch.lean ====
section
/-! DEFINITION. `exec`: one arm per operation (R184, R99). It is the activity of the tick alone; what every tick does
besides (R171, R173, R186) stands around it in `Machine/Tick.lean`. DEDUCED (log entry 13; safe). -/

namespace Sys2Proof.Machine

def exec (i : Instr) (s : State) : Host.Outcome State Fault Refusal :=
  match i with
  | .init arg => Sys2Proof.Machine.execInit arg s
  | .enable arg => Sys2Proof.Machine.execEnable arg s
  | .disable arg => Sys2Proof.Machine.execDisable arg s
  | .available arg => Sys2Proof.Machine.execAvailable arg s
  | .read arg => Sys2Proof.Machine.execRead arg s
  | .lost arg => Sys2Proof.Machine.execLost arg s
  | .resetLost arg => Sys2Proof.Machine.execResetLost arg s
  | .setGain sel => Sys2Proof.Machine.execSetGain sel s
  | .powerDown arg => Sys2Proof.Machine.execPowerDown arg s
  | .powerUp arg => Sys2Proof.Machine.execPowerUp arg s
  | .reserved10 arg => Sys2Proof.Machine.execReserved10 arg s
  | .reserved11 arg => Sys2Proof.Machine.execReserved11 arg s
  | .reserved12 arg => Sys2Proof.Machine.execReserved12 arg s
  | .reserved13 arg => Sys2Proof.Machine.execReserved13 arg s
  | .reserved14 arg => Sys2Proof.Machine.execReserved14 arg s
  | .reserved15 arg => Sys2Proof.Machine.execReserved15 arg s
  | .handler => Sys2Proof.Machine.execHandler s

end Sys2Proof.Machine
end

