-- ==== Sys2Proof/WellFormed.lean ====
section
/-! DEFINITION. Which operations can stand on the command port. Every field of a command admits all its values (R60,
R66, R67), so the one check is that the operation has a command word at all (R64). -/

namespace Sys2Proof

/-- The operation can be presented on the command port: all of them but `HANDLER`, which "is not presented on the
command port" and has no encoding (R64, R99). -/
def Instr.presentable : Instr → Bool
  | .init _ | .enable _ | .disable _ | .available _ | .read _ | .lost _ | .resetLost _ | .setGain _
  | .powerDown _ | .powerUp _ | .reserved10 _ | .reserved11 _ | .reserved12 _ | .reserved13 _
  | .reserved14 _ | .reserved15 _ => true
  | .handler => false

/-- A well-formed instruction: one the command port can carry. -/
abbrev WellFormed (i : Instr) : Prop := i.presentable = true

end Sys2Proof
end

