-- ==== Sys2Proof/Decode.lean ====
section
/-! DEFINITION. The decoder of command words, the encoder, and the assembler of one script line
(`30_encoding.md` R60 to R67, R76). -/

namespace Sys2Proof

/-- Why a number is no command word. -/
inductive DecodeError where
  /-- The number has a bit above bit 11: the port `cmd_word` is 12 bits wide (R11, R60), so no such word exists. -/
  | widerThanCommandWord (w : Nat)
deriving DecidableEq, Repr

/-- The instruction of a command word: `op = cmd_word[11:8]`, `arg = cmd_word[7:0]` (R60, R61, R184). The last pattern
is reached by the opcode 15 alone, `op` being 4 bits. -/
def decodeWord (w : CmdWord) : Instr :=
  let arg : Arg := w.extractLsb' 0 8
  match (w.extractLsb' 8 4).toNat with
  | 0 => .init arg
  | 1 => .enable arg
  | 2 => .disable arg
  | 3 => .available arg
  | 4 => .read arg
  | 5 => .lost arg
  | 6 => .resetLost arg
  | 7 => .setGain arg
  | 8 => .powerDown arg
  | 9 => .powerUp arg
  | 10 => .reserved10 arg
  | 11 => .reserved11 arg
  | 12 => .reserved12 arg
  | 13 => .reserved13 arg
  | 14 => .reserved14 arg
  | _ => .reserved15 arg

/-- The decoder on any number of bits: a 12-bit word has its instruction, a wider number is rejected by name. -/
def decode (w : Nat) : Except DecodeError Instr :=
  if w < 2 ^ 12 then .ok (decodeWord (BitVec.ofNat 12 w)) else .error (.widerThanCommandWord w)

/-- The opcode of a command (R61); `handler` has none (R64). -/
def opcode : Instr → Option (BitVec 4)
  | .init _ => some 0
  | .enable _ => some 1
  | .disable _ => some 2
  | .available _ => some 3
  | .read _ => some 4
  | .lost _ => some 5
  | .resetLost _ => some 6
  | .setGain _ => some 7
  | .powerDown _ => some 8
  | .powerUp _ => some 9
  | .reserved10 _ => some 10
  | .reserved11 _ => some 11
  | .reserved12 _ => some 12
  | .reserved13 _ => some 13
  | .reserved14 _ => some 14
  | .reserved15 _ => some 15
  | .handler => none

/-- The command word of an instruction, `{op, arg}` (R60); none for `handler`, which has no encoding. -/
def encode (i : Instr) : Option CmdWord :=
  match opcode i, i.arg with
  | some op, some arg => some (op ++ arg)
  | _, _ => none

/-- The instruction the decoder reads from a table row's bits. One command is one 12-bit word and nothing in the block
is byte-addressed (R60, R42), so the word is the number itself; a row without bits is `HANDLER`'s, which has no encoding
(R64), and no word is read from it (log entry 8). -/
def decodeTableWord (nbits w : Nat) : Option Instr :=
  if nbits = 0 then none
  else
    match decode (w % 2 ^ nbits) with
    | .ok i => some i
    | .error _ => none

/-- The operand of a script line (R76): none, a number, or one of the three gain names. -/
inductive AsmArg where
  | absent
  | number (n : Nat)
  | name (s : String)
deriving DecidableEq, Repr

/-- Why a script line is no command line (R76). -/
inductive AsmError where
  /-- The mnemonic is none of the ten of R61. -/
  | unknownMnemonic (s : String)
  /-- An operand stands after a mnemonic other than `SET_GAIN`. -/
  | operandNotAllowed
  /-- The operand is no number from 0 to 255. -/
  | operandOutOfRange (n : Nat)
  /-- The operand is none of `GAIN_A128`, `GAIN_B32`, `GAIN_A64`. -/
  | unknownGainName (s : String)
deriving DecidableEq, Repr

/-- The ten mnemonics and their opcodes (R61, R76). -/
def mnemonicOpcodes : List (String × Nat) :=
  [("INIT", 0), ("ENABLE", 1), ("DISABLE", 2), ("AVAILABLE", 3), ("READ", 4), ("LOST", 5), ("RESET_LOST", 6),
   ("SET_GAIN", 7), ("POWER_DOWN", 8), ("POWER_UP", 9)]

/-- The names that may be written for the codes 1, 2, 3 (R70, R76). -/
def gainNames : List (String × Nat) := [("GAIN_A128", 1), ("GAIN_B32", 2), ("GAIN_A64", 3)]

/-- The number an operand stands for; an absent one is 0 (R76). -/
def asmArgValue : AsmArg → Except AsmError Nat
  | .absent => .ok 0
  | .number n => if n < 256 then .ok n else .error (.operandOutOfRange n)
  | .name s =>
    match gainNames.lookup s with
    | some n => .ok n
    | none => .error (.unknownGainName s)

/-- One command line of a script: `(op << 8) | arg`, an operand allowed only after `SET_GAIN` (R76). -/
def assemble (mnemonic : String) (a : AsmArg) : Except AsmError CmdWord :=
  match mnemonicOpcodes.lookup mnemonic with
  | none => .error (.unknownMnemonic mnemonic)
  | some op =>
    if op ≠ 7 ∧ a ≠ .absent then .error .operandNotAllowed
    else
      match asmArgValue a with
      | .ok arg => .ok (BitVec.ofNat 12 (op <<< 8 ||| arg))
      | .error e => .error e

end Sys2Proof
end

