-- ==== Sys2Proof/Machine/Engine.lean ====
section
/-! DEFINITION. The micro-steps of the protocol engine, one per tick (`40_protocol_engine.md` R93 to R96). They are no
operations of the opcode table: a conversion takes them by itself once `HANDLER` or `READ` has started it. -/

namespace Sys2Proof.Machine

/-- `CONV_HIGH` (R93): a data pulse shifts `dout` in, an extra pulse discards it; the clock is lowered. -/
def convHigh (s : State) : State :=
  { s with
    acc := if s.pulse.toNat < Config.dataBits then shiftIn s.acc s.now.dout else s.acc
    sck := false
    eng := .low }

/-- `CONV_FINISH` (R96): commit `last <- pending`; the sample, formed from the old `last`, answers the `READ` that
started the conversion, or is pushed if listening, or is discarded. -/
def convFinish (s : State) : State :=
  match s.origin with
  | .fg => s.convReturn.respond true s.sample
  | .irq => if s.listening then s.convReturn.push s.sample else s.convReturn

/-- `CONV_LOW` (R94): the next pulse, or the finish after pulse `23 + pending`. The comparison is exact. -/
def convLow (s : State) : State :=
  if s.pulse.toNat + 1 < pulsesOf s.pending then
    { s with pulse := s.pulse + 1, sck := true, eng := .high }
  else convFinish s

end Sys2Proof.Machine
end

