-- ==== Sys2Proof/Machine/Tick.lean ====
section
/-! DEFINITION. What a tick does around its activity (`45_step_and_arbitration.md` R180 to R190): the choice of the one
activity, the clearing of the response registers, the updates of the ready detector, the hardware reset, and how a
command is placed on the port. -/

namespace Sys2Proof.Machine

/-- The activity of a tick out of reset, exactly one (R181): a micro-step of the engine, an operation of the opcode table
(`HANDLER` or the accepted command), or nothing. -/
inductive Activity where
  | convHigh
  | convLow
  | run (i : Instr)
  | nothing
deriving DecidableEq, Repr

/-- The choice, in the order of tests of R181: a running conversion, then a pending event, then a presented command.
A command is accepted only with `eng = IDLE` and `evt_pend = 0` (R182, R183, R185). -/
def activity (s : State) : Activity :=
  match s.eng with
  | .high => .convHigh
  | .low => .convLow
  | .idle =>
    if s.evtPend then .run .handler
    else if s.now.cmdValid then .run (decodeWord s.now.cmdWord)
    else .nothing

/-- The state an activity starts from: no response stands unless the activity writes one (R186, R190). -/
def beginTick (s : State) : State := s.clearResponse

/-- The end of the tick that began in `s` and whose activity left `t` (R171, R173): `dout_prev` follows the line, the
latch takes its equation, the tick's inputs are used up (log entry 3). -/
def endTick (s t : State) : State :=
  { t with doutPrev := s.now.dout, evtPend := evtPendNext s t, inputs := s.inputs.tail, tick := s.tick + 1 }

/-- A tick with `rst_n = 0` (R180, R230): the reset state. The storage of the buffer is not reset (R19).
DEDUCED: the kept storage (log entry 4; unsafe for slots outside the window) and that the state changes at the end of the
tick (log entry 15; unsafe for the outputs of the first such tick). -/
def hardReset (s : State) : State :=
  { State.reset with buf := s.buf, inputs := s.inputs.tail, tick := s.tick + 1 }

/-- The end of a tick whose activity is an operation: a stop of the operation is the tick's. -/
def endOperation (s : State) (r : Result) : Result :=
  match r with
  | .next t => .next (endTick s t)
  | .fault f => .fault f
  | .refused f => .refused f

/-- The inputs of a tick that presents the command word `w`: out of reset, and `dout` as it is listed for this tick, or
unmoved where nothing is listed (log entry 7). -/
def State.presenting (s : State) (w : CmdWord) : TickInput :=
  { rstN := true
    dout := match s.inputs with
      | i :: _ => i.dout
      | [] => s.doutPrev
    cmdValid := true
    cmdWord := w }

/-- `s` with the command word `w` on the port in this tick and the port open (R185), so that this tick accepts it
(log entry 7). -/
def State.present (s : State) (w : CmdWord) : State :=
  { s with eng := .idle, evtPend := false, inputs := s.presenting w :: s.inputs.tail }

end Sys2Proof.Machine
end

