-- ==== Sys2Proof/Machine/Step.lean ====
section
/-! DEFINITION. `step`: one tick of the block (`45_step_and_arbitration.md` R180, R190). -/

namespace Sys2Proof.Machine

/-- One tick, with the inputs `s.now` (R190). -/
def step (s : State) : Host.Outcome State Fault Refusal :=
  if s.now.rstN then
    match activity s with
    | .convHigh => .next (endTick s (convHigh (beginTick s)))
    | .convLow => .next (endTick s (convLow (beginTick s)))
    | .run i => endOperation s (exec i (beginTick s))
    | .nothing => .next (endTick s (beginTick s))
  else .next (hardReset s)

/-- `s` with the command word of a table row placed where the next tick takes its command: on the command port, with
`cmd_ready = 1` (R185). The port is 12 bits wide (R11); a program is presented from outside (log entry 7). -/
def State.withFetchWord (s : State) (nbits w : Nat) : State :=
  s.present (BitVec.ofNat 12 (w % 2 ^ nbits))

end Sys2Proof.Machine
end

