-- ==== Sys2Proof/Safety.lean ====
section
/-! DEFINITION. What claims are stated in: the invariants of `10_state.md` R28, what the buffer holds as a queue (R120),
the readings of the state the spec names (R30), acceptance (R185), and the duties the spec lays on the host and the
platform (R187, R253, R262), which the block does not enforce. -/

namespace Sys2Proof.Machine

/-- A value that can be a tagged sample (R28 item 3, R71): bits 31:30 not zero, bits 29:24 zero. -/
abbrev IsSample (v : Word) : Prop := v.extractLsb' 30 2 ≠ 0 ∧ v.extractLsb' 24 6 = 0

/-- What the buffer holds, oldest first (R120): the words of the slots `(head + k) mod 8`, `k = 0 .. count-1`. -/
def State.contents (s : State) : List Word := (List.range s.count.toNat).map (fun k => s.slot (s.windowSlot k))

/-- The invariants of R28 that are about one state (items 1 to 4, 6, 7, 9, 10), the canonical form of the storage, and
the one R96 derives (a handler conversion runs only while listening). -/
structure Inv (s : State) : Prop where
  /-- R28 item 1. -/
  count_le : s.count.toNat ≤ Config.capacity
  /-- R28 item 2. -/
  pending_legal : s.pending ≠ 0
  /-- R28 item 2. -/
  last_legal : s.last ≠ 0
  /-- R28 item 3, of the samples the storage holds. -/
  stored_samples : ∀ x ∈ s.buf, IsSample x.2
  /-- R28 item 4. -/
  evt_pend_masked : s.evtPend = true → s.listening = true ∧ s.eng = .idle
  /-- R28 item 6. -/
  high_clock : s.eng = .high → s.sck = true
  /-- R28 item 6. -/
  low_clock : s.eng = .low → s.sck = false
  /-- R28 item 7: every slot of the window has been written. -/
  window_written : ∀ k < s.count.toNat, (s.buf.read (s.windowSlot k).toNat).isSome = true
  /-- R28 item 9. -/
  no_stale_response : s.rspValid = false → s.rspOk = false ∧ s.rspData = 0
  /-- R28 item 10. -/
  pulse_le : s.eng ≠ .idle → s.pulse.toNat ≤ 23 + s.pending.toNat
  /-- R96: the discard branch is not reached. -/
  irq_listening : s.eng ≠ .idle → s.origin = .irq → s.listening = true
  /-- R40: the canonical form of the storage. -/
  buf_wf : s.buf.wf

/-- The invariant of the shift register (R93, R101): while pulse `p` of the 24 data pulses is high, `acc` holds `p` bits,
and once it is low, `p + 1`; so the bit shifted out is always 0. -/
structure AccInv (s : State) : Prop where
  high_bits : s.eng = .high → s.pulse.toNat < 24 → s.acc.toNat < 2 ^ s.pulse.toNat
  low_bits : s.eng = .low → s.pulse.toNat < 24 → s.acc.toNat < 2 ^ (s.pulse.toNat + 1)

/-- In this tick the block is out of reset and accepts the command `i` (R185). -/
abbrev Accepts (s : State) (i : Instr) : Prop :=
  s.now.rstN = true ∧ s.now.cmdValid = true ∧ s.cmdReady = true ∧ decodeWord s.now.cmdWord = i

/-- The next `k` ticks are out of reset. -/
abbrev OutOfReset (k : Nat) (s : State) : Prop := ∀ j < k, (s.inputAt j).rstN = true

/-- The first tick of a conversion's bit-clock sequence: the state `CONV_START` leaves (R92). -/
abbrev AtConversionStart (s : State) : Prop := s.eng = .high ∧ s.pulse = 0 ∧ s.acc = 0 ∧ s.sck = true

/-- This tick finishes a conversion: the low tick of its last pulse (R94, R96). -/
def State.finishing (s : State) : Bool :=
  decide (s.eng = .low) && !decide (s.pulse.toNat + 1 < pulsesOf s.pending)

/-- A run of pushes with no pop between them (R125), in the order of the list. -/
def State.pushAll (s : State) (xs : List Word) : State := xs.foldl State.push s

/-- The words of `n` sequential pops, fewer if the buffer empties (R132). -/
def State.drain : Nat → State → List Word
  | 0, _ => []
  | n + 1, s =>
    match s.pop with
    | some (v, t) => v :: State.drain n t
    | none => []

/-- `k` ticks, up to the first that stops. -/
def ticks : Nat → State → Result
  | 0, s => .next s
  | k + 1, s =>
    match step s with
    | .next t => ticks k t
    | .fault f => .fault f
    | .refused f => .refused f

/-- The states of source §4.4 that the block can tell apart (R30). `Idle` after reset or `INIT` reads as one of them, and
the fourth pair has no name in the source (`90_conflicts.md` C2): DESIGN CHOICE (log entry 16; safe). -/
inductive NamedState where
  | poweredUpNotListening
  | poweredUpListening
  | poweredDown
  | poweredDownListening
deriving DecidableEq, Repr

/-- The reading of the pair (`listening`, `sck`) of an idle block (R30). -/
def State.namedState (s : State) : NamedState :=
  match s.listening, s.sck with
  | false, false => .poweredUpNotListening
  | true, false => .poweredUpListening
  | false, true => .poweredDown
  | true, true => .poweredDownListening

/-- This tick starts a conversion (R99, R128 case 2). -/
def State.startsConversion (s : State) : Bool :=
  s.now.rstN && s.ready &&
  match activity s with
  | .run .handler => true
  | .run (.read _) => decide (s.count = 0)
  | _ => false

/-- The hazard of R253: a conversion starts while the clock line is held high. The block runs it; the host must keep it
from happening. -/
def State.powerDownHazard (s : State) : Bool := s.startsConversion && s.sck

/-- The host keeps the word `w` on the command port in this tick and in the `k` ticks after it: the convention for hosts
that have presented a command (R187). -/
abbrev HoldsCommand (k : Nat) (w : CmdWord) (s : State) : Prop :=
  ∀ j ≤ k, (s.inputAt j).cmdValid = true ∧ (s.inputAt j).cmdWord = w

/-- The bounds of R262 on the tick, in nanoseconds: one tick high is shorter than 50 microseconds, and a tick is no
shorter than the settle delay and than the chip's minimum low time. DESIGN CHOICE (log entry 18; unsafe where the settle
delay is longer): the spec says "about 0.1 us", and exactly 100 ns is the model's figure. DESIGN CHOICE (log entry 17;
unsafe for other periods): whole nanoseconds. -/
abbrev TimingBudget (tickNs minLowNs : Nat) : Prop := tickNs < 50000 ∧ 100 ≤ tickNs ∧ minLowNs ≤ tickNs

/-- How many ticks the host waits after `POWER_DOWN` at the least, `ceil(60 us / T_TICK)` (R262), `T_TICK`
being a whole number of nanoseconds (log entry 17). -/
def powerDownTicks (tickNs : Nat) : Nat := (60000 + tickNs - 1) / tickNs

/-- How often `sck` rises within `k` ticks from `s`; a tick that stops ends the count. -/
def risingEdges : Nat → State → Nat
  | 0, _ => 0
  | k + 1, s =>
    match step s with
    | .next t => (if s.sck = false ∧ t.sck = true then 1 else 0) + risingEdges k t
    | .fault _ => 0
    | .refused _ => 0

end Sys2Proof.Machine
end

