-- ==== Sys2Proof/Certificates/Slice0/Obligations.lean ====
section
/-! DEFINITION. The statements for the provers, each `def Obligations.<Name> : Prop`, from the numbered rules of the spec.
A statement about a command gives its encoding (R61) and has two halves: what `exec` answers, for every state (the activity alone, all other fields
unchanged), and what the whole tick answers when the block accepts the command (R185), with the updates every tick makes
(R171, R173, R186). In that half, `inputs` and `tick` are the model's own fields (log entry 3). -/

open Sys2Proof Sys2Proof.Machine

/-! ## Reset, decoding, encoding -/

/-- R230: the registers and the outputs of the reset state, and that every tick with `rst_n = 0` gives those registers,
whatever the state before. `buf` is unspecified: nothing is said of it. -/
def Obligations.ResetGivesTheTableState : Prop :=
  (∀ s : State, s.now.rstN = false → ∃ t, step s = .next t ∧
    t = { State.reset with buf := t.buf, inputs := s.inputs.tail, tick := s.tick + 1 }) ∧
  (State.reset.acc = 0x000000#24 ∧ State.reset.sck = false ∧ State.reset.eng = .idle ∧ State.reset.pulse = 0 ∧
   State.reset.origin = .irq ∧ State.reset.pending = 1 ∧ State.reset.last = 1 ∧ State.reset.listening = false ∧
   State.reset.head = 0 ∧ State.reset.count = 0 ∧ State.reset.lost = 0 ∧ State.reset.doutPrev = true ∧
   State.reset.evtPend = false ∧ State.reset.rspValid = false ∧ State.reset.rspOk = false ∧ State.reset.rspData = 0) ∧
  (State.reset.busy = false ∧ State.reset.cmdReady = true ∧ State.reset.notifyEn = false) ∧
  ∀ s : State, s.ready = !s.now.dout

/-- R61: the match patterns of the ten commands and of the reserved opcodes, the reserved ones and the ignored `arg` as
the vectors of `95_test_vectors.md` write them. -/
def Obligations.DecodesTheOpcodeMap : Prop :=
  decode 0x000 = .ok (.init 0x00) ∧ decode 0x100 = .ok (.enable 0x00) ∧ decode 0x200 = .ok (.disable 0x00) ∧
  decode 0x3FF = .ok (.available 0xFF) ∧ decode 0x400 = .ok (.read 0x00) ∧ decode 0x500 = .ok (.lost 0x00) ∧
  decode 0x600 = .ok (.resetLost 0x00) ∧ decode 0x7C8 = .ok (.setGain 200) ∧ decode 0x800 = .ok (.powerDown 0x00) ∧
  decode 0x900 = .ok (.powerUp 0x00) ∧ decode 0xA00 = .ok (.reserved10 0x00) ∧ decode 0xB7F = .ok (.reserved11 0x7F) ∧
  decode 0xC00 = .ok (.reserved12 0x00) ∧ decode 0xD01 = .ok (.reserved13 0x01) ∧
  decode 0xE80 = .ok (.reserved14 0x80) ∧ decode 0xF55 = .ok (.reserved15 0x55)

/-- Decode and encode agree: every well-formed instruction, with every operand, has a word, and that word decodes to it. -/
def Obligations.DecodeOfEncodeIsTheInstruction : Prop :=
  ∀ i : Instr, WellFormed i → ∃ w : CmdWord, encode i = some w ∧ decode w.toNat = .ok i

/-- Every 12-bit word decodes, to a well-formed instruction that encodes to that same word; a wider number is rejected by
name. So no two instructions share a word and no bit of a word is dropped. -/
def Obligations.EncodeOfDecodeIsTheWord : Prop :=
  (∀ w : CmdWord, decode w.toNat = .ok (decodeWord w) ∧ WellFormed (decodeWord w) ∧ encode (decodeWord w) = some w) ∧
  ∀ n : Nat, 2 ^ 12 ≤ n → decode n = .error (.widerThanCommandWord n)

/-- R76: the words the rule lists for the ten forms of a command line, `SET_GAIN` for every number from 0 to 255, and the
three gain names. -/
def Obligations.AssemblesTheListedWords : Prop :=
  assemble "INIT" .absent = .ok 0x000 ∧ assemble "ENABLE" .absent = .ok 0x100 ∧
  assemble "DISABLE" .absent = .ok 0x200 ∧ assemble "AVAILABLE" .absent = .ok 0x300 ∧
  assemble "READ" .absent = .ok 0x400 ∧ assemble "LOST" .absent = .ok 0x500 ∧
  assemble "RESET_LOST" .absent = .ok 0x600 ∧ assemble "POWER_DOWN" .absent = .ok 0x800 ∧
  assemble "POWER_UP" .absent = .ok 0x900 ∧
  (∀ g : Nat, g < 256 → assemble "SET_GAIN" (.number g) = .ok (BitVec.ofNat 12 (0x700 + g))) ∧
  assemble "SET_GAIN" (.name "GAIN_A128") = .ok 0x701 ∧ assemble "SET_GAIN" (.name "GAIN_B32") = .ok 0x702 ∧
  assemble "SET_GAIN" (.name "GAIN_A64") = .ok 0x703

/-! ## What a tick runs -/

/-- R184, R185: out of reset, with the port open and a command presented, the tick is `exec` of the instruction that the
presented word decodes to; around it the response registers are cleared before (`beginTick`) and the ready detector and
the inputs are updated after (`endOperation`, `endTick`). -/
def Obligations.StepRunsTheDecodedCommand : Prop :=
  ∀ (s : State) (i : Instr), s.now.rstN = true → s.now.cmdValid = true → s.cmdReady = true →
    decode s.now.cmdWord.toNat = .ok i → step s = endOperation s (exec i (beginTick s))

/-- R181: the other four rows of the table of activities; a pending event goes before a presented command (R182). -/
def Obligations.StepRunsTheOtherActivities : Prop :=
  ∀ s : State, s.now.rstN = true →
    (s.eng = .high → step s = .next (endTick s (convHigh (beginTick s)))) ∧
    (s.eng = .low → step s = .next (endTick s (convLow (beginTick s)))) ∧
    (s.eng = .idle → s.evtPend = true → step s = endOperation s (exec .handler (beginTick s))) ∧
    (s.eng = .idle → s.evtPend = false → s.now.cmdValid = false → step s = .next (endTick s (beginTick s)))

/-- R185: a command is accepted if and only if it is presented and `cmd_ready = 1`. -/
def Obligations.AcceptedIffPresentedAndReady : Prop :=
  ∀ (s : State) (i : Instr), WellFormed i →
    (activity s = .run i ↔ s.now.cmdValid = true ∧ s.cmdReady = true ∧ decodeWord s.now.cmdWord = i) ∧
    (s.cmdReady = true ↔ s.eng = .idle ∧ s.evtPend = false)

/-- R200: every state, with whatever inputs, has a next state; nothing stops. -/
def Obligations.EveryTickHasANextState : Prop :=
  (∀ (i : Instr) (s : State), ∃ t, exec i s = .next t) ∧ ∀ s : State, ∃ t, step s = .next t

/-- R67: in every command but `SET_GAIN`, all 256 values of `arg` give the same behaviour. -/
def Obligations.IgnoredArgumentChangesNothing : Prop :=
  ∀ (op : BitVec 4) (a b : Arg) (s : State), op ≠ 7 →
    exec (decodeWord (op ++ a)) s = exec (decodeWord (op ++ b)) s

/-! ## The commands -/

/-- R150. -/
def Obligations.InitRestoresTheDataModel : Prop :=
  ∀ (a : Arg) (s : State),
    decodeWord (0x0#4 ++ a) = .init a ∧
    exec (.init a) s = .next { s with
      listening := false, head := 0, count := 0, lost := 0, pending := 1, last := 1,
      rspValid := true, rspOk := true, rspData := 0 } ∧
    (Accepts s (.init a) → step s = .next { s with
      listening := false, head := 0, count := 0, lost := 0, pending := 1, last := 1,
      rspValid := true, rspOk := true, rspData := 0,
      doutPrev := s.now.dout, evtPend := false, inputs := s.inputs.tail, tick := s.tick + 1 })

/-- R151: a transition of `dout` in the accepting tick is recorded only if the mask was open already. -/
def Obligations.EnableOpensTheMask : Prop :=
  ∀ (a : Arg) (s : State),
    decodeWord (0x1#4 ++ a) = .enable a ∧
    exec (.enable a) s = .next { s with listening := true, rspValid := true, rspOk := true, rspData := 0 } ∧
    (Accepts s (.enable a) → step s = .next { s with
      listening := true, rspValid := true, rspOk := true, rspData := 0,
      doutPrev := s.now.dout, evtPend := s.listening && s.edge, inputs := s.inputs.tail, tick := s.tick + 1 })

/-- R152: a transition of `dout` in the accepting tick is dropped. -/
def Obligations.DisableClosesTheMask : Prop :=
  ∀ (a : Arg) (s : State),
    decodeWord (0x2#4 ++ a) = .disable a ∧
    exec (.disable a) s = .next { s with listening := false, rspValid := true, rspOk := true, rspData := 0 } ∧
    (Accepts s (.disable a) → step s = .next { s with
      listening := false, rspValid := true, rspOk := true, rspData := 0,
      doutPrev := s.now.dout, evtPend := false, inputs := s.inputs.tail, tick := s.tick + 1 })

/-- R127. -/
def Obligations.AvailableAnswersTheCount : Prop :=
  ∀ (a : Arg) (s : State),
    decodeWord (0x3#4 ++ a) = .available a ∧
    exec (.available a) s = .next { s with rspValid := true, rspOk := true, rspData := s.count.zeroExtend 32 } ∧
    (Accepts s (.available a) → step s = .next { s with
      rspValid := true, rspOk := true, rspData := s.count.zeroExtend 32,
      doutPrev := s.now.dout, evtPend := s.listening && s.edge, inputs := s.inputs.tail, tick := s.tick + 1 })

/-- R128, the three cases; where case 2 leads is `FallbackReadAnswersTheSample`. In case 1 the data of a slot that no
`push` has written is the model's free value (log entry 2); no run from reset reads one (`StepKeepsTheInvariants`). -/
def Obligations.ReadHasThreeCases : Prop :=
  ∀ (a : Arg) (s : State),
    decodeWord (0x4#4 ++ a) = .read a ∧
    (s.count ≠ 0 →
      exec (.read a) s = .next { s with
        head := s.windowSlot 1, count := s.count - 1, rspValid := true, rspOk := true, rspData := s.slot s.head } ∧
      (Accepts s (.read a) → step s = .next { s with
        head := s.windowSlot 1, count := s.count - 1, rspValid := true, rspOk := true, rspData := s.slot s.head,
        doutPrev := s.now.dout, evtPend := s.listening && s.edge, inputs := s.inputs.tail, tick := s.tick + 1 })) ∧
    (s.count = 0 → s.now.dout = false →
      exec (.read a) s = .next { s with acc := 0, pulse := 0, origin := .fg, sck := true, eng := .high } ∧
      (Accepts s (.read a) → step s = .next { s with
        acc := 0, pulse := 0, origin := .fg, sck := true, eng := .high,
        rspValid := false, rspOk := false, rspData := 0,
        doutPrev := false, evtPend := false, inputs := s.inputs.tail, tick := s.tick + 1 })) ∧
    (s.count = 0 → s.now.dout = true →
      exec (.read a) s = .next { s with rspValid := true, rspOk := false, rspData := 0 } ∧
      (Accepts s (.read a) → step s = .next { s with
        rspValid := true, rspOk := false, rspData := 0,
        doutPrev := true, evtPend := s.listening && s.edge, inputs := s.inputs.tail, tick := s.tick + 1 }))

/-- R129. -/
def Obligations.LostAnswersTheCounter : Prop :=
  ∀ (a : Arg) (s : State),
    decodeWord (0x5#4 ++ a) = .lost a ∧
    exec (.lost a) s = .next { s with rspValid := true, rspOk := true, rspData := s.lost } ∧
    (Accepts s (.lost a) → step s = .next { s with
      rspValid := true, rspOk := true, rspData := s.lost,
      doutPrev := s.now.dout, evtPend := s.listening && s.edge, inputs := s.inputs.tail, tick := s.tick + 1 })

/-- R130. -/
def Obligations.ResetLostClearsTheCounter : Prop :=
  ∀ (a : Arg) (s : State),
    decodeWord (0x6#4 ++ a) = .resetLost a ∧
    exec (.resetLost a) s = .next { s with lost := 0, rspValid := true, rspOk := true, rspData := 0 } ∧
    (Accepts s (.resetLost a) → step s = .next { s with
      lost := 0, rspValid := true, rspOk := true, rspData := 0,
      doutPrev := s.now.dout, evtPend := s.listening && s.edge, inputs := s.inputs.tail, tick := s.tick + 1 })

/-- R141, R142: all eight bits of the operand are compared, and the answer is the same for a valid and an invalid one. -/
def Obligations.SetGainTakesOnlyTheThreeCodes : Prop :=
  ∀ (sel : Arg) (s : State), ∃ g : Selection,
    decodeWord (0x7#4 ++ sel) = .setGain sel ∧
    (sel = 1 → g = 1) ∧ (sel = 2 → g = 2) ∧ (sel = 3 → g = 3) ∧
    (sel ≠ 1 → sel ≠ 2 → sel ≠ 3 → g = s.pending) ∧
    exec (.setGain sel) s = .next { s with pending := g, rspValid := true, rspOk := true, rspData := 0 } ∧
    (Accepts s (.setGain sel) → step s = .next { s with
      pending := g, rspValid := true, rspOk := true, rspData := 0,
      doutPrev := s.now.dout, evtPend := s.listening && s.edge, inputs := s.inputs.tail, tick := s.tick + 1 })

/-- R156. -/
def Obligations.PowerDownRaisesTheClockLine : Prop :=
  ∀ (a : Arg) (s : State),
    decodeWord (0x8#4 ++ a) = .powerDown a ∧
    exec (.powerDown a) s = .next { s with sck := true, rspValid := true, rspOk := true, rspData := 0 } ∧
    (Accepts s (.powerDown a) → step s = .next { s with
      sck := true, rspValid := true, rspOk := true, rspData := 0,
      doutPrev := s.now.dout, evtPend := s.listening && s.edge, inputs := s.inputs.tail, tick := s.tick + 1 })

/-- R157: the decision to reset `last` depends on the level of the clock line before it is lowered. -/
def Obligations.PowerUpResetsTheTagOfAHighLine : Prop :=
  ∀ (a : Arg) (s : State), ∃ l : Selection, (s.sck = true → l = 1) ∧ (s.sck = false → l = s.last) ∧
    decodeWord (0x9#4 ++ a) = .powerUp a ∧
    exec (.powerUp a) s = .next { s with last := l, sck := false, rspValid := true, rspOk := true, rspData := 0 } ∧
    (Accepts s (.powerUp a) → step s = .next { s with
      last := l, sck := false, rspValid := true, rspOk := true, rspData := 0,
      doutPrev := s.now.dout, evtPend := s.listening && s.edge, inputs := s.inputs.tail, tick := s.tick + 1 })

/-- R188: the six reserved opcodes. -/
def Obligations.ReservedOpcodesAnswerNotOk : Prop :=
  ∀ (a : Arg) (s : State) (i : Instr),
    i ∈ [Instr.reserved10 a, .reserved11 a, .reserved12 a, .reserved13 a, .reserved14 a, .reserved15 a] →
    (∃ op : BitVec 4, 10 ≤ op.toNat ∧ decodeWord (op ++ a) = i) ∧
    exec i s = .next { s with rspValid := true, rspOk := false, rspData := 0 } ∧
    (Accepts s i → step s = .next { s with
      rspValid := true, rspOk := false, rspData := 0,
      doutPrev := s.now.dout, evtPend := s.listening && s.edge, inputs := s.inputs.tail, tick := s.tick + 1 })

/-! ## The handler and the engine -/

/-- R99: the handler consumes the event and starts a conversion if, and only if, the line is low. In the tick that
dispatches it, a start drops the tick's own transition (R173); where nothing starts, a new transition is recorded. -/
def Obligations.HandlerStartsAConversionOnALowLine : Prop :=
  ∀ s : State,
    (s.now.dout = false →
      exec .handler s = .next { s with
        evtPend := false, acc := 0, pulse := 0, origin := .irq, sck := true, eng := .high } ∧
      (s.now.rstN = true → s.eng = .idle → s.evtPend = true → step s = .next { s with
        acc := 0, pulse := 0, origin := .irq, sck := true, eng := .high,
        rspValid := false, rspOk := false, rspData := 0,
        doutPrev := false, evtPend := false, inputs := s.inputs.tail, tick := s.tick + 1 })) ∧
    (s.now.dout = true →
      exec .handler s = .next { s with evtPend := false } ∧
      (s.now.rstN = true → s.eng = .idle → s.evtPend = true → step s = .next { s with
        rspValid := false, rspOk := false, rspData := 0,
        doutPrev := true, evtPend := s.listening && s.edge, inputs := s.inputs.tail, tick := s.tick + 1 }))

/-- R93: the tick with the clock high; of a data pulse the line is shifted into `acc`, of an extra pulse it is discarded. -/
def Obligations.HighTickSamplesTheLine : Prop :=
  ∀ s : State, s.now.rstN = true → s.eng = .high → ∃ t, step s = .next t ∧
    (s.pulse.toNat < 24 →
      t.acc.getLsbD 0 = s.now.dout ∧ (∀ j < 23, t.acc.getLsbD (j + 1) = s.acc.getLsbD j) ∧
      (AccInv s → s.acc.getLsbD 23 = false)) ∧
    (24 ≤ s.pulse.toNat → t.acc = s.acc) ∧
    t = { s with
      acc := t.acc, sck := false, eng := .low, rspValid := false, rspOk := false, rspData := 0,
      doutPrev := s.now.dout, evtPend := false, inputs := s.inputs.tail, tick := s.tick + 1 }

/-- R94: the low tick of every pulse but the last raises the clock of the next; that of the last finishes, and what that
does is `FinishCommitsAndDelivers`. -/
def Obligations.LowTickRaisesTheNextPulse : Prop :=
  ∀ s : State, s.now.rstN = true → s.eng = .low →
    (s.pulse.toNat + 1 < 24 + s.pending.toNat → step s = .next { s with
      pulse := s.pulse + 1, sck := true, eng := .high, rspValid := false, rspOk := false, rspData := 0,
      doutPrev := s.now.dout, evtPend := false, inputs := s.inputs.tail, tick := s.tick + 1 }) ∧
    (24 + s.pending.toNat ≤ s.pulse.toNat + 1 → s.finishing = true ∧ ∃ t, step s = .next t ∧
      t.eng = .idle ∧ t.sck = s.sck ∧ t.pulse = s.pulse)

/-- R95: the three fields of the sample of a finishing conversion, the tag being `last` and not `pending`. -/
def Obligations.SampleIsTagZerosReading : Prop :=
  ∀ s : State, s.sample.extractLsb' 30 2 = s.last ∧ s.sample.extractLsb' 24 6 = 0 ∧ s.sample.extractLsb' 0 24 = s.acc ∧
    s.sample = ((s.last.zeroExtend 32 : Word) <<< 30) ||| (s.acc.zeroExtend 32 : Word)

/-- R96: the finishing tick commits `last <- pending` for every origin (R145), and answers, pushes or discards the sample
formed from the old `last`. The stored slot is `pushSlot`, `(head + count) mod 8`; every other slot reads as before.
That `count` falls on a full buffer is reading A of `90_conflicts.md` C1 (D7, log entry 10), and that a count from 9 to 15,
which no run reaches, counts as full is the model's choice (log entry 6). -/
def Obligations.FinishCommitsAndDelivers : Prop :=
  ∀ s : State, s.now.rstN = true → s.finishing = true → ∃ t, step s = .next t ∧
    (s.evtPend = false → t.cmdReady = true) ∧
    (s.origin = .fg → t = { s with
      last := s.pending, eng := .idle, rspValid := true, rspOk := true, rspData := s.sample,
      doutPrev := s.now.dout, evtPend := s.listening && s.evtPend, inputs := s.inputs.tail, tick := s.tick + 1 }) ∧
    (s.origin = .irq → s.listening = true → t = { s with
      buf := t.buf, head := t.head, count := t.count, lost := t.lost,
      last := s.pending, eng := .idle, rspValid := false, rspOk := false, rspData := 0,
      doutPrev := s.now.dout, evtPend := s.evtPend, inputs := s.inputs.tail, tick := s.tick + 1 } ∧
      (s.count.toNat < 8 → t.slot s.pushSlot = s.sample ∧ (∀ a, a ≠ s.pushSlot → t.slot a = s.slot a) ∧
        t.head = s.head ∧ t.count = s.count + 1 ∧ t.lost = s.lost) ∧
      (8 ≤ s.count.toNat → (∀ a, t.slot a = s.slot a) ∧
        t.head = s.windowSlot 1 ∧ t.count = s.count - 1 ∧ t.lost = satInc s.lost)) ∧
    (s.origin = .irq → s.listening = false → t = { s with
      last := s.pending, eng := .idle, rspValid := false, rspOk := false, rspData := 0,
      doutPrev := s.now.dout, evtPend := false, inputs := s.inputs.tail, tick := s.tick + 1 })

/-! ## The ring buffer -/

/-- R121: a push on a buffer that is not full. -/
def Obligations.PushStoresInTheNextSlot : Prop :=
  ∀ (s : State) (v : Word), s.count.toNat < 8 →
    s.pushSlot.toNat = (s.head.toNat + s.count.toNat) % 8 ∧
    (s.push v).slot s.pushSlot = v ∧ (∀ a, a ≠ s.pushSlot → (s.push v).slot a = s.slot a) ∧
    (s.push v).count.toNat = s.count.toNat + 1 ∧
    s.push v = { s with buf := (s.push v).buf, count := (s.push v).count }

/-- R122: a push on a full buffer writes no slot, abandons the oldest entry and counts one event. That `count` falls is the
spec's own reading of the source (`90_conflicts.md` C1, reading A, D7; log entry 10). -/
def Obligations.PushOnAFullBufferFreesASlot : Prop :=
  ∀ (s : State) (v : Word), s.count = 8 →
    s.push v = { s with head := (s.push v).head, count := 7, lost := satInc s.lost } ∧
    (s.push v).head.toNat = (s.head.toNat + 1) % 8

/-- R123: `pop`. -/
def Obligations.PopTakesTheOldest : Prop :=
  ∀ s : State, (s.count = 0 → s.pop = none) ∧
    (s.count ≠ 0 → ∃ t, s.pop = some (s.slot s.head, t) ∧
      t.head.toNat = (s.head.toNat + 1) % 8 ∧ t.count.toNat + 1 = s.count.toNat ∧
      t = { s with head := t.head, count := t.count })

/-- R126: `sat_inc` counts up to `LOST_MAX` and stays there. -/
def Obligations.SatIncSaturates : Prop :=
  ∀ v : Word, (satInc v).toNat = min (v.toNat + 1) 0xFFFFFFFF ∧ (satInc v = v ↔ v = 0xFFFFFFFF)

/-- R125: a run of `n` pushes into an empty buffer with no pop between them. What is left is, in order, some of what was
pushed; the counter, which saturates, rises by `ceil(j / 2)` for `n = 8 + j`: a push on a full buffer
follows reading A of `90_conflicts.md` C1 (D7, log entry 10). -/
def Obligations.PushRunAlternatesDropAndStore : Prop :=
  ∀ (s : State) (xs : List Word), s.count = 0 →
    (s.pushAll xs).contents.Sublist xs ∧ (s.pushAll xs).count.toNat ≤ 8 ∧
    (xs.length ≤ 8 → (s.pushAll xs).count.toNat = xs.length ∧ (s.pushAll xs).lost = s.lost ∧
      (s.pushAll xs).head = s.head ∧ (s.pushAll xs).contents = xs) ∧
    ∀ j, xs.length = 8 + j → 1 ≤ j →
      (s.pushAll xs).lost.toNat = min (s.lost.toNat + (j + 1) / 2) 0xFFFFFFFF ∧
      (s.pushAll xs).head.toNat = (s.head.toNat + (j + 1) / 2) % 8 ∧
      (s.pushAll xs).count.toNat = (if j % 2 = 1 then 7 else 8)

/-- R132: up to `capacity` pushed samples come back in push order by sequential pops, and then the buffer is empty. -/
def Obligations.PushedSamplesPopInOrder : Prop :=
  ∀ (s : State) (xs : List Word) (n : Nat), s.count = 0 → xs.length ≤ 8 → xs.length ≤ n →
    (s.pushAll xs).drain n = xs

/-- R48: the buffer is a queue in every tick. Its contents, oldest first, lose their first entry to a `READ`, which answers
it, and to a push on a full buffer; they gain the finished sample at the end by a push on a buffer that is not full; `INIT`
and reset empty them; nothing else changes them. The push on a full buffer follows
reading A of `90_conflicts.md` C1 (D7, log entry 10). -/
def Obligations.EveryTickKeepsTheQueueOrder : Prop :=
  ∀ s t : State, Inv s → step s = .next t →
    (s.now.rstN = false → t.contents = []) ∧
    (s.now.rstN = true →
      (∀ a, activity s = .run (.init a) → t.contents = []) ∧
      (∀ a, activity s = .run (.read a) → s.count ≠ 0 → s.contents = t.rspData :: t.contents ∧ t.rspOk = true) ∧
      (s.finishing = true → s.origin = .irq → s.contents.length < 8 → t.contents = s.contents ++ [s.sample]) ∧
      (s.finishing = true → s.origin = .irq → s.contents.length = 8 →
        s.contents.tail = t.contents ∧ t.contents.length = 7 ∧ t.lost = satInc s.lost) ∧
      ((∀ a, activity s ≠ .run (.init a)) → (∀ a, activity s = .run (.read a) → s.count = 0) →
        (s.finishing = true → s.origin = .fg) → t.contents = s.contents))

/-! ## The ready detector, the command port, the response -/

/-- R171, R173: the edge monitor and the pending latch, in every tick out of reset, and the consequences R173 draws. -/
def Obligations.PendingLatchFollowsItsEquation : Prop :=
  ∀ s t : State, s.now.rstN = true → step s = .next t →
    t.doutPrev = s.now.dout ∧ (s.notifyEn = true ↔ s.listening = true ∧ s.eng = .idle) ∧
    (t.evtPend = true ↔ t.notifyEn = true ∧
      ((s.notifyEn = true ∧ s.now.dout ≠ s.doutPrev) ∨ (s.evtPend = true ∧ activity s ≠ .run .handler))) ∧
    (t.evtPend = true → t.listening = true ∧ t.eng = .idle) ∧
    (s.finishing = true → s.evtPend = false → t.evtPend = false) ∧
    (s.startsConversion = true → t.evtPend = false) ∧
    (activity s = .run .handler → s.now.dout = true → s.doutPrev = false → s.listening = true →
      t.evtPend = true ∧ activity t = .run .handler)

/-- R186: a tick out of reset writes a response if and only if a command completes in it: an accepted command that is not
a fallback `READ`, or the finish of a foreground conversion; else the three registers are zero. -/
def Obligations.ResponseOnlyOfACompletedCommand : Prop :=
  ∀ s t : State, s.now.rstN = true → step s = .next t →
    (t.rspValid = true ↔
      (∃ i, WellFormed i ∧ activity s = .run i ∧ ¬ ((∃ a, i = .read a) ∧ s.count = 0 ∧ s.now.dout = false)) ∨
      (s.finishing = true ∧ s.origin = .fg)) ∧
    (t.rspValid = false → t.rspOk = false ∧ t.rspData = 0)

/-- R183, R187: in a tick with `cmd_ready = 0` the command port has no influence: whatever word is presented, changed or
withdrawn, the next state is the same. -/
def Obligations.ClosedPortHasNoInfluence : Prop :=
  ∀ (s : State) (i : TickInput) (rest : List TickInput) (v : Bool) (w : CmdWord),
    s.inputs = i :: rest → s.cmdReady = false →
    step { s with inputs := { i with cmdValid := v, cmdWord := w } :: rest } = step s

/-- R97 item 2: in a low tick, and in the high tick of an extra pulse, the level of `dout` reaches nothing but
`dout_prev`. -/
def Obligations.LineIsIgnoredOutsideDataPulses : Prop :=
  ∀ (s : State) (i : TickInput) (rest : List TickInput) (d : Bool),
    s.inputs = i :: rest → i.rstN = true → (s.eng = .low ∨ s.eng = .high ∧ 24 ≤ s.pulse.toNat) →
    ∃ t, step s = .next t ∧ step { s with inputs := { i with dout := d } :: rest } = .next { t with doutPrev := d }

/-! ## Rules about the whole machine -/

/-- R28 for the reset state. -/
def Obligations.ResetMeetsTheInvariants : Prop := Inv State.reset ∧ AccInv State.reset

/-- R28: every tick keeps the invariants, from every state that meets them. -/
def Obligations.StepKeepsTheInvariants : Prop := ∀ s t : State, Inv s → step s = .next t → Inv t

/-- R93, R101: every tick keeps the bound on `acc`, so the bit a data pulse shifts out is 0. -/
def Obligations.NoDataBitIsShiftedOut : Prop :=
  (∀ s t : State, AccInv s → step s = .next t → AccInv t) ∧
  ∀ s : State, AccInv s → s.eng = .high → s.pulse.toNat < 24 → s.acc.getLsbD 23 = false

/-- R25, the columns of the commands and of the dispatch of `HANDLER`: the frame of every operation. A field is unchanged
by every operation but those named; no operation stores to the buffer (the stores are those of a finishing conversion,
`FinishCommitsAndDelivers`). -/
def Obligations.OperationsWriteOnlyWhatTheAccessTableGives : Prop :=
  ∀ (i : Instr) (s t : State), exec i s = .next t →
    (match i with | .init _ | .setGain _ => True | _ => t.pending = s.pending) ∧
    (match i with | .init _ | .powerUp _ => True | _ => t.last = s.last) ∧
    (match i with | .init _ | .enable _ | .disable _ => True | _ => t.listening = s.listening) ∧
    (match i with | .init _ | .read _ => True | _ => t.head = s.head ∧ t.count = s.count) ∧
    (match i with | .init _ | .resetLost _ => True | _ => t.lost = s.lost) ∧
    (match i with | .powerDown _ | .powerUp _ | .read _ | .handler => True | _ => t.sck = s.sck) ∧
    (match i with
      | .read _ | .handler => True
      | _ => t.acc = s.acc ∧ t.eng = s.eng ∧ t.pulse = s.pulse ∧ t.origin = s.origin) ∧
    (match i with | .handler => True | _ => t.evtPend = s.evtPend) ∧
    (match i with
      | .handler => t.rspValid = s.rspValid ∧ t.rspOk = s.rspOk ∧ t.rspData = s.rspData
      | _ => True) ∧
    (∀ a, t.slot a = s.slot a) ∧ t.doutPrev = s.doutPrev ∧ t.inputs = s.inputs ∧ t.tick = s.tick

/-- R15, R16: who writes the two selections, over all ticks out of reset. -/
def Obligations.SelectionsHaveTheNamedWriters : Prop :=
  ∀ s t : State, s.now.rstN = true → step s = .next t →
    (t.pending ≠ s.pending →
      (∃ a, Accepts s (.init a) ∧ t.pending = 1) ∨
      ∃ sel, Accepts s (.setGain sel) ∧ (sel = 1 ∨ sel = 2 ∨ sel = 3) ∧ t.pending = sel.extractLsb' 0 2) ∧
    (t.last ≠ s.last →
      (s.finishing = true ∧ t.last = s.pending) ∨
      (∃ a, Accepts s (.powerUp a) ∧ s.sck = true ∧ t.last = 1) ∨
      ∃ a, Accepts s (.init a) ∧ t.last = 1)

/-- R17, R28 item 5: who writes the listening flag, and who moves the clock line of an idle block. -/
def Obligations.ModeBitsHaveTheNamedWriters : Prop :=
  ∀ s t : State, s.now.rstN = true → step s = .next t →
    (t.listening ≠ s.listening →
      (∃ a, Accepts s (.enable a) ∧ t.listening = true) ∨
      ∃ a, (Accepts s (.disable a) ∨ Accepts s (.init a)) ∧ t.listening = false) ∧
    (s.eng = .idle → t.sck ≠ s.sck →
      (∃ a, Accepts s (.powerDown a) ∧ t.sck = true) ∨ (∃ a, Accepts s (.powerUp a) ∧ t.sck = false) ∨
      (s.startsConversion = true ∧ t.sck = true))

/-- R19, R20, R46: who writes a slot of the buffer and who writes the lost counter. That a count from 9 to 15,
which no run reaches, counts as full is the model's choice (log entry 6). -/
def Obligations.BufferAndCounterHaveTheNamedWriters : Prop :=
  ∀ s t : State, s.now.rstN = true → step s = .next t →
    (∀ a, t.slot a ≠ s.slot a →
      s.finishing = true ∧ s.origin = .irq ∧ s.listening = true ∧ s.count.toNat < 8 ∧
      a = s.pushSlot ∧ t.slot a = s.sample) ∧
    (t.lost ≠ s.lost →
      (∃ a, (Accepts s (.resetLost a) ∨ Accepts s (.init a)) ∧ t.lost = 0) ∨
      (s.finishing = true ∧ s.origin = .irq ∧ s.listening = true ∧ 8 ≤ s.count.toNat ∧ t.lost = satInc s.lost))

/-- R28 item 8: from the start of a conversion to the tick before it finishes, what the commands and the buffer own does
not change, and no command is accepted. -/
def Obligations.BusyTicksKeepTheHostState : Prop :=
  ∀ s t : State, s.now.rstN = true → s.eng ≠ .idle → step s = .next t →
    s.cmdReady = false ∧ t.pending = s.pending ∧ t.listening = s.listening ∧
    (s.finishing = false → t.eng ≠ .idle ∧ t.last = s.last ∧ t.origin = s.origin ∧ t.head = s.head ∧ t.count = s.count ∧
      t.lost = s.lost ∧ ∀ a, t.slot a = s.slot a)

/-- R28 item 3: what `READ` answers with `rsp_ok = 1` is a sample, so never zero. -/
def Obligations.AnsweredSamplesAreNeverZero : Prop :=
  ∀ s t : State, Inv s → s.now.rstN = true → step s = .next t →
    ((∃ a, activity s = .run (.read a)) ∨ s.finishing = true) → t.rspOk = true →
    IsSample t.rspData ∧ t.rspData ≠ 0

/-- R30: the readings of the pair (`listening`, `sck`) that the four mode commands lead to. The name of the pair that the
source does not name is the model's (log entry 16). -/
def Obligations.ModeCommandsMoveTheNamedState : Prop :=
  ∀ (a : Arg) (s : State),
    (Accepts s (.powerDown a) → ∃ t, step s = .next t ∧
      t.namedState = if s.listening then .poweredDownListening else .poweredDown) ∧
    (Accepts s (.powerUp a) → ∃ t, step s = .next t ∧
      t.namedState = if s.listening then .poweredUpListening else .poweredUpNotListening) ∧
    (Accepts s (.enable a) → ∃ t, step s = .next t ∧
      t.namedState = if s.sck then .poweredDownListening else .poweredUpListening) ∧
    (Accepts s (.disable a) → ∃ t, step s = .next t ∧
      t.namedState = if s.sck then .poweredDown else .poweredUpNotListening)

/-- R262: within the bounds on the tick, the ticks the host waits after `POWER_DOWN` last the 60 microseconds, and are
more than the one tick after which a `POWER_UP` can follow (R255). The bounds are the model's reading of R262: whole
nanoseconds (log entry 17), a settle delay of exactly 100 ns (log entry 18). -/
def Obligations.PowerDownWaitIsLongEnough : Prop :=
  ∀ tickNs minLowNs : Nat, TimingBudget tickNs minLowNs →
    60000 ≤ powerDownTicks tickNs * tickNs ∧ (powerDownTicks tickNs - 1) * tickNs < 60000 ∧ 2 ≤ powerDownTicks tickNs

/-! ## Runs -/

/-- R97 items 2 to 5: a conversion, from the first tick of its bit-clock sequence to the idle tick after it, whoever
started it. High tick `p` is `2 p` ticks on; the first bit is the most significant. -/
def Obligations.ConversionIsOneEvent : Prop :=
  ∀ s : State, AtConversionStart s → OutOfReset (2 * (24 + s.pending.toNat)) s →
    ∃ t, ticks (2 * (24 + s.pending.toNat)) s = .next t ∧
      t.eng = .idle ∧ t.sck = false ∧ t.last = s.pending ∧ t.evtPend = false ∧
      (∀ p < 24, t.acc.getLsbD (23 - p) = (s.inputAt (2 * p)).dout) ∧
      t.pending = s.pending ∧ t.listening = s.listening ∧
      (s.origin = .fg →
        t.rspValid = true ∧ t.rspOk = true ∧ t.rspData = assembleSample s.last t.acc ∧
        t.head = s.head ∧ t.count = s.count ∧ t.lost = s.lost ∧ t.buf = s.buf) ∧
      (s.origin = .irq → s.listening = true → t.rspValid = false ∧
        t.head = (s.push (assembleSample s.last t.acc)).head ∧ t.count = (s.push (assembleSample s.last t.acc)).count ∧
        t.lost = (s.push (assembleSample s.last t.acc)).lost ∧ t.buf = (s.push (assembleSample s.last t.acc)).buf) ∧
      (s.origin = .irq → s.listening = false → t.rspValid = false ∧
        t.head = s.head ∧ t.count = s.count ∧ t.lost = s.lost ∧ t.buf = s.buf)

/-- R97 items 1 and 6, R73: the pulses a conversion drives on the clock line, and that the command port stays closed and
no event is recorded until it ends. -/
def Obligations.ConversionDrivesItsPulses : Prop :=
  ∀ s : State, AtConversionStart s → OutOfReset (2 * (24 + s.pending.toNat)) s →
    ∀ p < 24 + s.pending.toNat,
      (∃ t, ticks (2 * p) s = .next t ∧
        t.eng = .high ∧ t.pulse.toNat = p ∧ t.sck = true ∧ t.cmdReady = false ∧ t.notifyEn = false) ∧
      (∃ t, ticks (2 * p + 1) s = .next t ∧
        t.eng = .low ∧ t.pulse.toNat = p ∧ t.sck = false ∧ t.cmdReady = false ∧ t.evtPend = false)

/-- R73, R253: from the tick that starts a conversion to its end, the clock line rises once for each of the `24 + pending`
pulses, and once less if the line was held high (the chip then sees one pulse fewer than the block counts). -/
def Obligations.RisingEdgesOfAConversion : Prop :=
  ∀ s : State, s.startsConversion = true → OutOfReset (1 + 2 * (24 + s.pending.toNat)) s →
    (s.powerDownHazard = false → risingEdges (1 + 2 * (24 + s.pending.toNat)) s = 24 + s.pending.toNat) ∧
    (s.powerDownHazard = true → risingEdges (1 + 2 * (24 + s.pending.toNat)) s = 23 + s.pending.toNat)

/-- R128 case 2, R186: a fallback `READ` answers `2 (24 + pending)` ticks after the accepting tick, with the sample read
from the line; until then there is no response and the port is closed; the buffer and the counter are untouched. -/
def Obligations.FallbackReadAnswersTheSample : Prop :=
  ∀ (a : Arg) (s : State), Accepts s (.read a) → s.count = 0 → s.now.dout = false →
    OutOfReset (1 + 2 * (24 + s.pending.toNat)) s →
    (∀ j, 1 ≤ j → j ≤ 2 * (24 + s.pending.toNat) →
      ∃ u, ticks j s = .next u ∧ u.rspValid = false ∧ u.cmdReady = false) ∧
    ∃ t, ticks (1 + 2 * (24 + s.pending.toNat)) s = .next t ∧
      t.rspValid = true ∧ t.rspOk = true ∧ t.rspData = assembleSample s.last t.acc ∧
      (∀ p < 24, t.acc.getLsbD (23 - p) = (s.inputAt (1 + 2 * p)).dout) ∧
      t.last = s.pending ∧ t.sck = false ∧ t.cmdReady = true ∧ t.pending = s.pending ∧ t.listening = s.listening ∧
      t.head = s.head ∧ t.count = 0 ∧ t.lost = s.lost ∧ t.buf = s.buf

/-- R99, R174, R96: a handler dispatched on a low line while listening stores its sample `2 (24 + pending)` ticks after
the dispatching tick, or, with a full buffer, counts it lost: that clause follows
reading A of `90_conflicts.md` C1 (D7, log entry 10). -/
def Obligations.HandlerConversionDeliversTheSample : Prop :=
  ∀ s : State, s.now.rstN = true → s.eng = .idle → s.evtPend = true → s.listening = true → s.now.dout = false →
    OutOfReset (1 + 2 * (24 + s.pending.toNat)) s →
    ∃ t, ticks (1 + 2 * (24 + s.pending.toNat)) s = .next t ∧
      (∀ p < 24, t.acc.getLsbD (23 - p) = (s.inputAt (1 + 2 * p)).dout) ∧
      t.last = s.pending ∧ t.sck = false ∧ t.cmdReady = true ∧ t.pending = s.pending ∧ t.listening = true ∧
      t.rspValid = false ∧
      (s.count.toNat < 8 → t.slot s.pushSlot = assembleSample s.last t.acc ∧
        (∀ b, b ≠ s.pushSlot → t.slot b = s.slot b) ∧ t.head = s.head ∧ t.count = s.count + 1 ∧ t.lost = s.lost) ∧
      (s.count = 8 → (∀ b, t.slot b = s.slot b) ∧ t.head = s.windowSlot 1 ∧ t.count = 7 ∧ t.lost = satInc s.lost)

/-- R144 (source §8, "Tag lag"): a selection set before a conversion shows in the tag of the conversion after it. Here both
conversions are fallback `READ`s of a block that is not listening; the first is tagged with the old `last`, the second
with the new selection. What a conversion of the handler does is `ConversionIsOneEvent`. -/
def Obligations.TagLagsByOneConversion : Prop :=
  ∀ (sel a b : Arg) (g : Selection) (s : State),
    selectionOf sel = some g → Accepts s (.setGain sel) → s.listening = false → s.count = 0 →
    OutOfReset (3 + 4 * (24 + g.toNat)) s →
    (s.inputAt 1).cmdValid = true → decodeWord (s.inputAt 1).cmdWord = .read a → (s.inputAt 1).dout = false →
    (s.inputAt (2 + 2 * (24 + g.toNat))).cmdValid = true →
    decodeWord (s.inputAt (2 + 2 * (24 + g.toNat))).cmdWord = .read b →
    (s.inputAt (2 + 2 * (24 + g.toNat))).dout = false →
    (∃ t, ticks (2 + 2 * (24 + g.toNat)) s = .next t ∧ t.rspOk = true ∧ t.rspData.extractLsb' 30 2 = s.last) ∧
    ∃ t, ticks (3 + 4 * (24 + g.toNat)) s = .next t ∧ t.rspOk = true ∧ t.rspData.extractLsb' 30 2 = g

/-- R187: a command that the host presents and holds is accepted at most 56 ticks later, whatever `dout` does. -/
def Obligations.HeldCommandIsAcceptedWithin56Ticks : Prop :=
  ∀ (w : CmdWord) (s : State), Inv s → HoldsCommand 56 w s → OutOfReset 57 s →
    ∃ k ≤ 56, ∃ t, ticks k s = .next t ∧ Accepts t (decodeWord w) ∧
      ∀ j < k, ∃ u, ticks j s = .next u ∧ u.cmdReady = false
end

