-- ==== Sys2Proof/Laws/Encoding.lean ====
section
/-! SUPPORT. The two fields of a command word (R60): a word is its opcode and its operand, and nothing else. -/

namespace Sys2Proof

theorem argField_append (op : BitVec 4) (a : Arg) : (op ++ a).extractLsb' 0 8 = a := by
  ext i hi
  rw [BitVec.getElem_extractLsb', BitVec.getLsbD_append]
  simp [hi]

theorem opField_append (op : BitVec 4) (a : Arg) : (op ++ a).extractLsb' 8 4 = op := by
  ext i hi
  rw [BitVec.getElem_extractLsb', BitVec.getLsbD_append]
  simp [BitVec.getLsbD_eq_getElem hi]

theorem fields_append (w : CmdWord) : w.extractLsb' 8 4 ++ w.extractLsb' 0 8 = w := by
  have h : (w.extractLsb' 8 4 ++ w.extractLsb' 0 8).toNat = _ := BitVec.toNat_append _ _
  apply BitVec.eq_of_toNat_eq
  rw [h]
  simp only [BitVec.extractLsb'_toNat, Nat.shiftRight_zero]
  rw [Nat.shiftLeft_eq, Nat.mul_comm, ← Nat.two_pow_add_eq_or_of_lt (Nat.mod_lt _ (by decide)),
    Nat.shiftRight_eq_div_pow]
  have := w.isLt
  omega

theorem decode_toNat (w : CmdWord) : decode w.toNat = .ok (decodeWord w) := by
  simp [decode, w.isLt]

/-- The operand of the instruction is the field `arg` of its word, whatever the opcode. -/
theorem decodeWord_arg (w : CmdWord) : (decodeWord w).arg = some (w.extractLsb' 0 8) := by
  unfold decodeWord
  split <;> rfl

end Sys2Proof
end

