-- ==== Sys2Proof/Laws/Memory.lean ====
section
/-! SUPPORT. The laws of the buffer's storage: read after write, and that a write keeps the canonical form. -/

namespace Sys2Proof.Machine

theorem Memory.read_write_same (m : Memory) (a : Nat) (v : Word) : (m.write a v).read a = some v := by
  induction m with
  | nil => simp [Memory.write, Memory.read]
  | cons e m ih =>
    obtain ⟨b, w⟩ := e
    by_cases h : a < b
    · simp [Memory.write, Memory.read, h]
    · by_cases h' : a = b
      · simp [Memory.write, Memory.read, h']
      · simp [Memory.write, Memory.read, h, h', ih]

theorem Memory.read_write_other (m : Memory) {a c : Nat} (v : Word) (h : c ≠ a) :
    (m.write a v).read c = m.read c := by
  induction m with
  | nil => simp [Memory.write, Memory.read, h]
  | cons e m ih =>
    obtain ⟨b, w⟩ := e
    by_cases h1 : a < b
    · simp [Memory.write, Memory.read, h1, h]
    · by_cases h2 : a = b
      · subst h2; simp [Memory.write, Memory.read, h]
      · simp [Memory.write, Memory.read, h1, h2, ih]

/-- What a slot holds stands in the storage. -/
theorem Memory.mem_of_read {m : Memory} {a : Nat} {v : Word} (h : m.read a = some v) : (a, v) ∈ m := by
  induction m with
  | nil => simp [Memory.read] at h
  | cons e m ih =>
    obtain ⟨b, w⟩ := e
    simp only [Memory.read] at h
    split at h
    · simp_all
    · exact List.mem_cons_of_mem _ (ih h)

/-- An entry after a write is the written one or was there before. -/
theorem Memory.mem_write {m : Memory} {a : Nat} {v : Word} {x : Nat × Word} (h : x ∈ m.write a v) :
    x = (a, v) ∨ x ∈ m := by
  induction m with
  | nil => simpa [Memory.write] using h
  | cons e m ih =>
    obtain ⟨b, w⟩ := e
    simp only [Memory.write] at h
    split at h
    · simpa using h
    · split at h
      · simp only [List.mem_cons] at h ⊢; tauto
      · simp only [List.mem_cons] at h ⊢; tauto

/-- Every memory operation keeps the canonical form: `write` is the only one that changes the storage. -/
theorem Memory.write_wf {m : Memory} {a : Nat} (v : Word) (h : m.wf) (ha : a < Config.capacity) : (m.write a v).wf := by
  refine ⟨?_, fun x hx => (Memory.mem_write hx).elim (fun e => e ▸ ha) (h.2 x)⟩
  obtain ⟨hp, -⟩ := h
  induction m with
  | nil => simp [Memory.write]
  | cons e m ih =>
    obtain ⟨b, w⟩ := e
    rw [List.pairwise_cons] at hp
    by_cases h1 : a < b
    · simp only [Memory.write, h1, if_true, List.pairwise_cons, List.mem_cons]
      refine ⟨?_, hp⟩
      rintro x (rfl | hx)
      · exact h1
      · exact h1.trans (hp.1 x hx)
    · by_cases h2 : a = b
      · subst h2
        simpa [Memory.write, List.pairwise_cons] using hp
      · simp only [Memory.write, h1, h2, if_false, List.pairwise_cons]
        refine ⟨fun x hx => ?_, ih hp.2⟩
        rcases Memory.mem_write hx with rfl | hx
        · simp; omega
        · exact hp.1 x hx

theorem State.reset_buf_wf : State.reset.buf.wf := by decide

end Sys2Proof.Machine
end

