-- ==== Sys2Proof/Laws/State.lean ====
section
/-! SUPPORT. One lemma per field per update of the state, so that no proof unfolds a record update. -/

namespace Sys2Proof.Machine

/-! ## The response registers (R186) -/

@[simp] theorem State.respond_acc (s : State) (ok : Bool) (d : Word) : (s.respond ok d).acc = s.acc := rfl
@[simp] theorem State.respond_sck (s : State) (ok : Bool) (d : Word) : (s.respond ok d).sck = s.sck := rfl
@[simp] theorem State.respond_pending (s : State) (ok : Bool) (d : Word) : (s.respond ok d).pending = s.pending := rfl
@[simp] theorem State.respond_last (s : State) (ok : Bool) (d : Word) : (s.respond ok d).last = s.last := rfl
@[simp] theorem State.respond_head (s : State) (ok : Bool) (d : Word) : (s.respond ok d).head = s.head := rfl
@[simp] theorem State.respond_count (s : State) (ok : Bool) (d : Word) : (s.respond ok d).count = s.count := rfl
@[simp] theorem State.respond_buf (s : State) (ok : Bool) (d : Word) : (s.respond ok d).buf = s.buf := rfl
@[simp] theorem State.respond_lost (s : State) (ok : Bool) (d : Word) : (s.respond ok d).lost = s.lost := rfl
@[simp] theorem State.respond_listening (s : State) (ok : Bool) (d : Word) :
    (s.respond ok d).listening = s.listening := rfl
@[simp] theorem State.respond_eng (s : State) (ok : Bool) (d : Word) : (s.respond ok d).eng = s.eng := rfl
@[simp] theorem State.respond_pulse (s : State) (ok : Bool) (d : Word) : (s.respond ok d).pulse = s.pulse := rfl
@[simp] theorem State.respond_origin (s : State) (ok : Bool) (d : Word) : (s.respond ok d).origin = s.origin := rfl
@[simp] theorem State.respond_doutPrev (s : State) (ok : Bool) (d : Word) :
    (s.respond ok d).doutPrev = s.doutPrev := rfl
@[simp] theorem State.respond_evtPend (s : State) (ok : Bool) (d : Word) : (s.respond ok d).evtPend = s.evtPend := rfl
@[simp] theorem State.respond_rspValid (s : State) (ok : Bool) (d : Word) : (s.respond ok d).rspValid = true := rfl
@[simp] theorem State.respond_rspOk (s : State) (ok : Bool) (d : Word) : (s.respond ok d).rspOk = ok := rfl
@[simp] theorem State.respond_rspData (s : State) (ok : Bool) (d : Word) : (s.respond ok d).rspData = d := rfl
@[simp] theorem State.respond_inputs (s : State) (ok : Bool) (d : Word) : (s.respond ok d).inputs = s.inputs := rfl
@[simp] theorem State.respond_tick (s : State) (ok : Bool) (d : Word) : (s.respond ok d).tick = s.tick := rfl

@[simp] theorem State.clearResponse_acc (s : State) : s.clearResponse.acc = s.acc := rfl
@[simp] theorem State.clearResponse_sck (s : State) : s.clearResponse.sck = s.sck := rfl
@[simp] theorem State.clearResponse_pending (s : State) : s.clearResponse.pending = s.pending := rfl
@[simp] theorem State.clearResponse_last (s : State) : s.clearResponse.last = s.last := rfl
@[simp] theorem State.clearResponse_head (s : State) : s.clearResponse.head = s.head := rfl
@[simp] theorem State.clearResponse_count (s : State) : s.clearResponse.count = s.count := rfl
@[simp] theorem State.clearResponse_buf (s : State) : s.clearResponse.buf = s.buf := rfl
@[simp] theorem State.clearResponse_lost (s : State) : s.clearResponse.lost = s.lost := rfl
@[simp] theorem State.clearResponse_listening (s : State) : s.clearResponse.listening = s.listening := rfl
@[simp] theorem State.clearResponse_eng (s : State) : s.clearResponse.eng = s.eng := rfl
@[simp] theorem State.clearResponse_pulse (s : State) : s.clearResponse.pulse = s.pulse := rfl
@[simp] theorem State.clearResponse_origin (s : State) : s.clearResponse.origin = s.origin := rfl
@[simp] theorem State.clearResponse_doutPrev (s : State) : s.clearResponse.doutPrev = s.doutPrev := rfl
@[simp] theorem State.clearResponse_evtPend (s : State) : s.clearResponse.evtPend = s.evtPend := rfl
@[simp] theorem State.clearResponse_rspValid (s : State) : s.clearResponse.rspValid = false := rfl
@[simp] theorem State.clearResponse_rspOk (s : State) : s.clearResponse.rspOk = false := rfl
@[simp] theorem State.clearResponse_rspData (s : State) : s.clearResponse.rspData = 0 := rfl
@[simp] theorem State.clearResponse_inputs (s : State) : s.clearResponse.inputs = s.inputs := rfl
@[simp] theorem State.clearResponse_tick (s : State) : s.clearResponse.tick = s.tick := rfl

@[simp] theorem beginTick_acc (s : State) : (beginTick s).acc = s.acc := rfl
@[simp] theorem beginTick_sck (s : State) : (beginTick s).sck = s.sck := rfl
@[simp] theorem beginTick_pending (s : State) : (beginTick s).pending = s.pending := rfl
@[simp] theorem beginTick_last (s : State) : (beginTick s).last = s.last := rfl
@[simp] theorem beginTick_head (s : State) : (beginTick s).head = s.head := rfl
@[simp] theorem beginTick_count (s : State) : (beginTick s).count = s.count := rfl
@[simp] theorem beginTick_buf (s : State) : (beginTick s).buf = s.buf := rfl
@[simp] theorem beginTick_lost (s : State) : (beginTick s).lost = s.lost := rfl
@[simp] theorem beginTick_listening (s : State) : (beginTick s).listening = s.listening := rfl
@[simp] theorem beginTick_eng (s : State) : (beginTick s).eng = s.eng := rfl
@[simp] theorem beginTick_pulse (s : State) : (beginTick s).pulse = s.pulse := rfl
@[simp] theorem beginTick_origin (s : State) : (beginTick s).origin = s.origin := rfl
@[simp] theorem beginTick_doutPrev (s : State) : (beginTick s).doutPrev = s.doutPrev := rfl
@[simp] theorem beginTick_evtPend (s : State) : (beginTick s).evtPend = s.evtPend := rfl
@[simp] theorem beginTick_rspValid (s : State) : (beginTick s).rspValid = false := rfl
@[simp] theorem beginTick_rspOk (s : State) : (beginTick s).rspOk = false := rfl
@[simp] theorem beginTick_rspData (s : State) : (beginTick s).rspData = 0 := rfl
@[simp] theorem beginTick_inputs (s : State) : (beginTick s).inputs = s.inputs := rfl
@[simp] theorem beginTick_tick (s : State) : (beginTick s).tick = s.tick := rfl

/-! ## The start and the return of a conversion (R92, R96, R207) -/

@[simp] theorem State.convStart_acc (s : State) (o : Origin) : (s.convStart o).acc = 0 := rfl
@[simp] theorem State.convStart_sck (s : State) (o : Origin) : (s.convStart o).sck = true := rfl
@[simp] theorem State.convStart_pending (s : State) (o : Origin) : (s.convStart o).pending = s.pending := rfl
@[simp] theorem State.convStart_last (s : State) (o : Origin) : (s.convStart o).last = s.last := rfl
@[simp] theorem State.convStart_head (s : State) (o : Origin) : (s.convStart o).head = s.head := rfl
@[simp] theorem State.convStart_count (s : State) (o : Origin) : (s.convStart o).count = s.count := rfl
@[simp] theorem State.convStart_buf (s : State) (o : Origin) : (s.convStart o).buf = s.buf := rfl
@[simp] theorem State.convStart_lost (s : State) (o : Origin) : (s.convStart o).lost = s.lost := rfl
@[simp] theorem State.convStart_listening (s : State) (o : Origin) : (s.convStart o).listening = s.listening := rfl
@[simp] theorem State.convStart_eng (s : State) (o : Origin) : (s.convStart o).eng = .high := rfl
@[simp] theorem State.convStart_pulse (s : State) (o : Origin) : (s.convStart o).pulse = 0 := rfl
@[simp] theorem State.convStart_origin (s : State) (o : Origin) : (s.convStart o).origin = o := rfl
@[simp] theorem State.convStart_doutPrev (s : State) (o : Origin) : (s.convStart o).doutPrev = s.doutPrev := rfl
@[simp] theorem State.convStart_evtPend (s : State) (o : Origin) : (s.convStart o).evtPend = s.evtPend := rfl
@[simp] theorem State.convStart_rspValid (s : State) (o : Origin) : (s.convStart o).rspValid = s.rspValid := rfl
@[simp] theorem State.convStart_rspOk (s : State) (o : Origin) : (s.convStart o).rspOk = s.rspOk := rfl
@[simp] theorem State.convStart_rspData (s : State) (o : Origin) : (s.convStart o).rspData = s.rspData := rfl
@[simp] theorem State.convStart_inputs (s : State) (o : Origin) : (s.convStart o).inputs = s.inputs := rfl
@[simp] theorem State.convStart_tick (s : State) (o : Origin) : (s.convStart o).tick = s.tick := rfl

@[simp] theorem State.convReturn_acc (s : State) : s.convReturn.acc = s.acc := rfl
@[simp] theorem State.convReturn_sck (s : State) : s.convReturn.sck = s.sck := rfl
@[simp] theorem State.convReturn_pending (s : State) : s.convReturn.pending = s.pending := rfl
@[simp] theorem State.convReturn_last (s : State) : s.convReturn.last = s.pending := rfl
@[simp] theorem State.convReturn_head (s : State) : s.convReturn.head = s.head := rfl
@[simp] theorem State.convReturn_count (s : State) : s.convReturn.count = s.count := rfl
@[simp] theorem State.convReturn_buf (s : State) : s.convReturn.buf = s.buf := rfl
@[simp] theorem State.convReturn_lost (s : State) : s.convReturn.lost = s.lost := rfl
@[simp] theorem State.convReturn_listening (s : State) : s.convReturn.listening = s.listening := rfl
@[simp] theorem State.convReturn_eng (s : State) : s.convReturn.eng = .idle := rfl
@[simp] theorem State.convReturn_pulse (s : State) : s.convReturn.pulse = s.pulse := rfl
@[simp] theorem State.convReturn_origin (s : State) : s.convReturn.origin = s.origin := rfl
@[simp] theorem State.convReturn_doutPrev (s : State) : s.convReturn.doutPrev = s.doutPrev := rfl
@[simp] theorem State.convReturn_evtPend (s : State) : s.convReturn.evtPend = s.evtPend := rfl
@[simp] theorem State.convReturn_rspValid (s : State) : s.convReturn.rspValid = s.rspValid := rfl
@[simp] theorem State.convReturn_rspOk (s : State) : s.convReturn.rspOk = s.rspOk := rfl
@[simp] theorem State.convReturn_rspData (s : State) : s.convReturn.rspData = s.rspData := rfl
@[simp] theorem State.convReturn_inputs (s : State) : s.convReturn.inputs = s.inputs := rfl
@[simp] theorem State.convReturn_tick (s : State) : s.convReturn.tick = s.tick := rfl

/-! ## The fields the conditional operations leave alone -/

@[simp] theorem State.setPending_acc (s : State) (sel : Arg) :
    (s.setPending sel).acc = s.acc := by unfold State.setPending; split <;> rfl
@[simp] theorem State.setPending_sck (s : State) (sel : Arg) :
    (s.setPending sel).sck = s.sck := by unfold State.setPending; split <;> rfl
@[simp] theorem State.setPending_last (s : State) (sel : Arg) :
    (s.setPending sel).last = s.last := by unfold State.setPending; split <;> rfl
@[simp] theorem State.setPending_head (s : State) (sel : Arg) :
    (s.setPending sel).head = s.head := by unfold State.setPending; split <;> rfl
@[simp] theorem State.setPending_count (s : State) (sel : Arg) :
    (s.setPending sel).count = s.count := by unfold State.setPending; split <;> rfl
@[simp] theorem State.setPending_buf (s : State) (sel : Arg) :
    (s.setPending sel).buf = s.buf := by unfold State.setPending; split <;> rfl
@[simp] theorem State.setPending_lost (s : State) (sel : Arg) :
    (s.setPending sel).lost = s.lost := by unfold State.setPending; split <;> rfl
@[simp] theorem State.setPending_listening (s : State) (sel : Arg) :
    (s.setPending sel).listening = s.listening := by unfold State.setPending; split <;> rfl
@[simp] theorem State.setPending_eng (s : State) (sel : Arg) :
    (s.setPending sel).eng = s.eng := by unfold State.setPending; split <;> rfl
@[simp] theorem State.setPending_pulse (s : State) (sel : Arg) :
    (s.setPending sel).pulse = s.pulse := by unfold State.setPending; split <;> rfl
@[simp] theorem State.setPending_origin (s : State) (sel : Arg) :
    (s.setPending sel).origin = s.origin := by unfold State.setPending; split <;> rfl
@[simp] theorem State.setPending_doutPrev (s : State) (sel : Arg) :
    (s.setPending sel).doutPrev = s.doutPrev := by unfold State.setPending; split <;> rfl
@[simp] theorem State.setPending_evtPend (s : State) (sel : Arg) :
    (s.setPending sel).evtPend = s.evtPend := by unfold State.setPending; split <;> rfl
@[simp] theorem State.setPending_rspValid (s : State) (sel : Arg) :
    (s.setPending sel).rspValid = s.rspValid := by unfold State.setPending; split <;> rfl
@[simp] theorem State.setPending_rspOk (s : State) (sel : Arg) :
    (s.setPending sel).rspOk = s.rspOk := by unfold State.setPending; split <;> rfl
@[simp] theorem State.setPending_rspData (s : State) (sel : Arg) :
    (s.setPending sel).rspData = s.rspData := by unfold State.setPending; split <;> rfl
@[simp] theorem State.setPending_inputs (s : State) (sel : Arg) :
    (s.setPending sel).inputs = s.inputs := by unfold State.setPending; split <;> rfl
@[simp] theorem State.setPending_tick (s : State) (sel : Arg) :
    (s.setPending sel).tick = s.tick := by unfold State.setPending; split <;> rfl

@[simp] theorem State.push_acc (s : State) (v : Word) : (s.push v).acc = s.acc := by unfold State.push; split <;> rfl
@[simp] theorem State.push_sck (s : State) (v : Word) : (s.push v).sck = s.sck := by unfold State.push; split <;> rfl
@[simp] theorem State.push_pending (s : State) (v : Word) :
    (s.push v).pending = s.pending := by unfold State.push; split <;> rfl
@[simp] theorem State.push_last (s : State) (v : Word) :
    (s.push v).last = s.last := by unfold State.push; split <;> rfl
@[simp] theorem State.push_listening (s : State) (v : Word) :
    (s.push v).listening = s.listening := by unfold State.push; split <;> rfl
@[simp] theorem State.push_eng (s : State) (v : Word) : (s.push v).eng = s.eng := by unfold State.push; split <;> rfl
@[simp] theorem State.push_pulse (s : State) (v : Word) :
    (s.push v).pulse = s.pulse := by unfold State.push; split <;> rfl
@[simp] theorem State.push_origin (s : State) (v : Word) :
    (s.push v).origin = s.origin := by unfold State.push; split <;> rfl
@[simp] theorem State.push_doutPrev (s : State) (v : Word) :
    (s.push v).doutPrev = s.doutPrev := by unfold State.push; split <;> rfl
@[simp] theorem State.push_evtPend (s : State) (v : Word) :
    (s.push v).evtPend = s.evtPend := by unfold State.push; split <;> rfl
@[simp] theorem State.push_rspValid (s : State) (v : Word) :
    (s.push v).rspValid = s.rspValid := by unfold State.push; split <;> rfl
@[simp] theorem State.push_rspOk (s : State) (v : Word) :
    (s.push v).rspOk = s.rspOk := by unfold State.push; split <;> rfl
@[simp] theorem State.push_rspData (s : State) (v : Word) :
    (s.push v).rspData = s.rspData := by unfold State.push; split <;> rfl
@[simp] theorem State.push_inputs (s : State) (v : Word) :
    (s.push v).inputs = s.inputs := by unfold State.push; split <;> rfl
@[simp] theorem State.push_tick (s : State) (v : Word) :
    (s.push v).tick = s.tick := by unfold State.push; split <;> rfl

@[simp] theorem State.handlerEntry_pending (s : State) :
    s.handlerEntry.pending = s.pending := by unfold State.handlerEntry; dsimp only; split <;> rfl
@[simp] theorem State.handlerEntry_last (s : State) :
    s.handlerEntry.last = s.last := by unfold State.handlerEntry; dsimp only; split <;> rfl
@[simp] theorem State.handlerEntry_head (s : State) :
    s.handlerEntry.head = s.head := by unfold State.handlerEntry; dsimp only; split <;> rfl
@[simp] theorem State.handlerEntry_count (s : State) :
    s.handlerEntry.count = s.count := by unfold State.handlerEntry; dsimp only; split <;> rfl
@[simp] theorem State.handlerEntry_buf (s : State) :
    s.handlerEntry.buf = s.buf := by unfold State.handlerEntry; dsimp only; split <;> rfl
@[simp] theorem State.handlerEntry_lost (s : State) :
    s.handlerEntry.lost = s.lost := by unfold State.handlerEntry; dsimp only; split <;> rfl
@[simp] theorem State.handlerEntry_listening (s : State) :
    s.handlerEntry.listening = s.listening := by unfold State.handlerEntry; dsimp only; split <;> rfl
@[simp] theorem State.handlerEntry_doutPrev (s : State) :
    s.handlerEntry.doutPrev = s.doutPrev := by unfold State.handlerEntry; dsimp only; split <;> rfl
@[simp] theorem State.handlerEntry_rspValid (s : State) :
    s.handlerEntry.rspValid = s.rspValid := by unfold State.handlerEntry; dsimp only; split <;> rfl
@[simp] theorem State.handlerEntry_rspOk (s : State) :
    s.handlerEntry.rspOk = s.rspOk := by unfold State.handlerEntry; dsimp only; split <;> rfl
@[simp] theorem State.handlerEntry_rspData (s : State) :
    s.handlerEntry.rspData = s.rspData := by unfold State.handlerEntry; dsimp only; split <;> rfl
@[simp] theorem State.handlerEntry_inputs (s : State) :
    s.handlerEntry.inputs = s.inputs := by unfold State.handlerEntry; dsimp only; split <;> rfl
@[simp] theorem State.handlerEntry_tick (s : State) :
    s.handlerEntry.tick = s.tick := by unfold State.handlerEntry; dsimp only; split <;> rfl

/-! ## The frame of a tick (R171, R173) and the hardware reset (R230) -/

@[simp] theorem endTick_acc (s t : State) : (endTick s t).acc = t.acc := rfl
@[simp] theorem endTick_sck (s t : State) : (endTick s t).sck = t.sck := rfl
@[simp] theorem endTick_pending (s t : State) : (endTick s t).pending = t.pending := rfl
@[simp] theorem endTick_last (s t : State) : (endTick s t).last = t.last := rfl
@[simp] theorem endTick_head (s t : State) : (endTick s t).head = t.head := rfl
@[simp] theorem endTick_count (s t : State) : (endTick s t).count = t.count := rfl
@[simp] theorem endTick_buf (s t : State) : (endTick s t).buf = t.buf := rfl
@[simp] theorem endTick_lost (s t : State) : (endTick s t).lost = t.lost := rfl
@[simp] theorem endTick_listening (s t : State) : (endTick s t).listening = t.listening := rfl
@[simp] theorem endTick_eng (s t : State) : (endTick s t).eng = t.eng := rfl
@[simp] theorem endTick_pulse (s t : State) : (endTick s t).pulse = t.pulse := rfl
@[simp] theorem endTick_origin (s t : State) : (endTick s t).origin = t.origin := rfl
@[simp] theorem endTick_doutPrev (s t : State) : (endTick s t).doutPrev = s.now.dout := rfl
@[simp] theorem endTick_evtPend (s t : State) : (endTick s t).evtPend = evtPendNext s t := rfl
@[simp] theorem endTick_rspValid (s t : State) : (endTick s t).rspValid = t.rspValid := rfl
@[simp] theorem endTick_rspOk (s t : State) : (endTick s t).rspOk = t.rspOk := rfl
@[simp] theorem endTick_rspData (s t : State) : (endTick s t).rspData = t.rspData := rfl
@[simp] theorem endTick_inputs (s t : State) : (endTick s t).inputs = s.inputs.tail := rfl
@[simp] theorem endTick_tick (s t : State) : (endTick s t).tick = s.tick + 1 := rfl

@[simp] theorem hardReset_acc (s : State) : (hardReset s).acc = 0 := rfl
@[simp] theorem hardReset_sck (s : State) : (hardReset s).sck = false := rfl
@[simp] theorem hardReset_pending (s : State) : (hardReset s).pending = 1#2 := rfl
@[simp] theorem hardReset_last (s : State) : (hardReset s).last = 1#2 := rfl
@[simp] theorem hardReset_head (s : State) : (hardReset s).head = 0 := rfl
@[simp] theorem hardReset_count (s : State) : (hardReset s).count = 0 := rfl
@[simp] theorem hardReset_buf (s : State) : (hardReset s).buf = s.buf := rfl
@[simp] theorem hardReset_lost (s : State) : (hardReset s).lost = 0 := rfl
@[simp] theorem hardReset_listening (s : State) : (hardReset s).listening = false := rfl
@[simp] theorem hardReset_eng (s : State) : (hardReset s).eng = .idle := rfl
@[simp] theorem hardReset_pulse (s : State) : (hardReset s).pulse = 0 := rfl
@[simp] theorem hardReset_origin (s : State) : (hardReset s).origin = .irq := rfl
@[simp] theorem hardReset_doutPrev (s : State) : (hardReset s).doutPrev = true := rfl
@[simp] theorem hardReset_evtPend (s : State) : (hardReset s).evtPend = false := rfl
@[simp] theorem hardReset_rspValid (s : State) : (hardReset s).rspValid = false := rfl
@[simp] theorem hardReset_rspOk (s : State) : (hardReset s).rspOk = false := rfl
@[simp] theorem hardReset_rspData (s : State) : (hardReset s).rspData = 0 := rfl
@[simp] theorem hardReset_inputs (s : State) : (hardReset s).inputs = s.inputs.tail := rfl
@[simp] theorem hardReset_tick (s : State) : (hardReset s).tick = s.tick + 1 := rfl

end Sys2Proof.Machine
end

