-- ==== Sys2Proof/Laws/Ops.lean ====
section
/-! SUPPORT. One lemma per shared operation that says once everything it can do; later proofs cite it and do not unfold
the operation. -/

namespace Sys2Proof.Machine

/-! ## Operands -/

@[simp] theorem nextSlot_toNat (i : SlotIdx) : (nextSlot i).toNat = (i.toNat + 1) % 8 := by
  simp [nextSlot]

@[simp] theorem State.windowSlot_toNat (s : State) (k : Nat) : (s.windowSlot k).toNat = (s.head.toNat + k) % 8 := by
  simp [State.windowSlot]

theorem State.windowSlot_zero (s : State) : s.windowSlot 0 = s.head := by
  apply BitVec.eq_of_toNat_eq; simp; omega

theorem State.windowSlot_one (s : State) : s.windowSlot 1 = nextSlot s.head := rfl

theorem State.pushSlot_toNat (s : State) : s.pushSlot.toNat = (s.head.toNat + s.count.toNat) % 8 := by
  simp [State.pushSlot]

theorem shiftIn_toNat (acc : Reading) (b : Bool) : (shiftIn acc b).toNat = (acc.toNat * 2) % 2 ^ 24 + b.toNat := by
  have h : (acc.extractLsb' 0 23 ++ BitVec.ofBool b).toNat = _ := BitVec.toNat_append _ _
  have hb : b.toNat < 2 ^ 1 := by cases b <;> decide
  simp only [shiftIn, h, BitVec.extractLsb'_toNat, Nat.shiftRight_zero, BitVec.toNat_ofBool]
  rw [Nat.shiftLeft_eq, Nat.mul_comm, ← Nat.two_pow_add_eq_or_of_lt hb]
  omega

theorem shiftIn_getLsbD_zero (acc : Reading) (b : Bool) : (shiftIn acc b).getLsbD 0 = b := by
  unfold shiftIn; rw [BitVec.getLsbD_append]; simp

theorem shiftIn_getLsbD_succ (acc : Reading) (b : Bool) {j : Nat} (h : j < 23) :
    (shiftIn acc b).getLsbD (j + 1) = acc.getLsbD j := by
  unfold shiftIn; rw [BitVec.getLsbD_append]; simp [h]

theorem selectionOf_cases (sel : Arg) :
    (sel = 1 ∧ selectionOf sel = some 1) ∨ (sel = 2 ∧ selectionOf sel = some 2) ∨
    (sel = 3 ∧ selectionOf sel = some 3) ∨ (sel ≠ 1 ∧ sel ≠ 2 ∧ sel ≠ 3 ∧ selectionOf sel = none) := by
  by_cases h1 : sel = 1
  · subst h1; left; decide
  by_cases h2 : sel = 2
  · subst h2; right; left; decide
  by_cases h3 : sel = 3
  · subst h3; right; right; left; decide
  · right; right; right
    refine ⟨h1, h2, h3, if_neg ?_⟩
    rintro (h | h | h)
    exacts [h1 h, h2 h, h3 h]

/-- A selection accepted by the setter is legal. -/
theorem selectionOf_legal {sel : Arg} {g : Selection} (h : selectionOf sel = some g) : g ≠ 0 := by
  rcases selectionOf_cases sel with ⟨-, e⟩ | ⟨-, e⟩ | ⟨-, e⟩ | ⟨-, -, -, e⟩ <;> rw [e] at h <;> simp at h <;>
    subst h <;> decide

/-! ## The tagged sample -/

/-- The fields of a sample do not overlap (R71, R101). -/
theorem assembleSample_toNat (tag : Selection) (r : Reading) :
    (assembleSample tag r).toNat = tag.toNat * 2 ^ 30 + r.toNat := by
  have h : (tag ++ 0#6 ++ r).toNat = _ := BitVec.toNat_append _ _
  have h' : (tag ++ 0#6).toNat = _ := BitVec.toNat_append _ _
  rw [assembleSample, h, h', Nat.shiftLeft_eq, Nat.shiftLeft_eq, BitVec.toNat_ofNat, Nat.zero_mod, Nat.or_zero,
    Nat.mul_comm, ← Nat.two_pow_add_eq_or_of_lt r.isLt]
  omega

theorem assembleSample_tag (tag : Selection) (r : Reading) : (assembleSample tag r).extractLsb' 30 2 = tag := by
  apply BitVec.eq_of_toNat_eq
  have := tag.isLt; have := r.isLt
  rw [BitVec.extractLsb'_toNat, assembleSample_toNat, Nat.shiftRight_eq_div_pow]
  omega

theorem assembleSample_zeros (tag : Selection) (r : Reading) : (assembleSample tag r).extractLsb' 24 6 = 0 := by
  apply BitVec.eq_of_toNat_eq
  have := tag.isLt; have := r.isLt
  rw [BitVec.extractLsb'_toNat, assembleSample_toNat, Nat.shiftRight_eq_div_pow]
  simp; omega

theorem assembleSample_reading (tag : Selection) (r : Reading) : (assembleSample tag r).extractLsb' 0 24 = r := by
  apply BitVec.eq_of_toNat_eq
  have := tag.isLt; have := r.isLt
  rw [BitVec.extractLsb'_toNat, assembleSample_toNat, Nat.shiftRight_zero]
  omega

/-- A sample with a legal tag is a sample, and never zero (R28 item 3). -/
theorem assembleSample_isSample {tag : Selection} (r : Reading) (h : tag ≠ 0) : IsSample (assembleSample tag r) :=
  ⟨by rwa [assembleSample_tag], assembleSample_zeros tag r⟩

/-! ## The buffer -/

/-- Everything `push` can do. -/
theorem State.push_cases (s : State) (v : Word) :
    (s.count.toNat < 8 ∧ s.push v = { s with buf := s.buf.write s.pushSlot.toNat v, count := s.count + 1 }) ∨
    (8 ≤ s.count.toNat ∧ s.push v = { s with head := nextSlot s.head, count := s.count - 1, lost := satInc s.lost }) := by
  unfold State.push
  simp only [Config.capacity]
  by_cases h : s.count.toNat < 8
  · left; exact ⟨h, if_pos h⟩
  · right; exact ⟨by omega, if_neg h⟩

/-- Everything `pop` can do. -/
theorem State.pop_cases (s : State) :
    (s.count = 0 ∧ s.pop = none) ∨
    (s.count ≠ 0 ∧ s.pop = some (s.slot s.head, { s with head := nextSlot s.head, count := s.count - 1 })) := by
  unfold State.pop
  by_cases h : s.count = 0
  · left; exact ⟨h, if_pos h⟩
  · right; exact ⟨h, if_neg h⟩

/-- Everything `set_pending` can do. -/
theorem State.setPending_cases (s : State) (sel : Arg) :
    (∃ g, selectionOf sel = some g ∧ s.setPending sel = { s with pending := g }) ∨
    (selectionOf sel = none ∧ s.setPending sel = s) := by
  unfold State.setPending
  cases h : selectionOf sel with
  | none => right; exact ⟨rfl, rfl⟩
  | some g => left; exact ⟨g, rfl, rfl⟩

/-- A slot of the state is a slot of its storage. -/
theorem State.slot_congr {s t : State} (h : t.buf = s.buf) (a : SlotIdx) : t.slot a = s.slot a := by
  simp only [State.slot, h]

theorem State.slot_write_same (s : State) (a : SlotIdx) (v : Word) (n : BitVec 4) :
    State.slot { s with buf := s.buf.write a.toNat v, count := n } a = v := by
  simp [State.slot, Memory.read_write_same]

theorem State.slot_write_other (s : State) {a b : SlotIdx} (v : Word) (n : BitVec 4) (h : b ≠ a) :
    State.slot { s with buf := s.buf.write a.toNat v, count := n } b = s.slot b := by
  have : b.toNat ≠ a.toNat := fun e => h (BitVec.eq_of_toNat_eq e)
  simp [State.slot, Memory.read_write_other _ _ this]

@[simp] theorem State.contents_length (s : State) : s.contents.length = s.count.toNat := by
  simp [State.contents]

/-! ## The handler's entry -/

/-- Everything the entry of the handler can do. -/
theorem State.handlerEntry_cases (s : State) :
    (s.now.dout = true ∧ s.handlerEntry = { s with evtPend := false }) ∨
    (s.now.dout = false ∧ s.handlerEntry = State.convStart { s with evtPend := false } .irq) := by
  unfold State.handlerEntry
  cases h : s.now.dout with
  | true => left; exact ⟨rfl, rfl⟩
  | false => right; exact ⟨rfl, rfl⟩

end Sys2Proof.Machine
end

