-- ==== Sys2Proof/Laws/PerInstr.lean ====
section
/-! SUPPORT. One family of lemmas, one lemma per constructor of `Instr`: the word of an operation is made of its opcode and
its operand and of nothing else (R60), and an operation has a word exactly if it is well-formed (R64). -/

namespace Sys2Proof.Laws.WordFields

/-- R60, R64: an operation with an operand is well-formed and its word holds its opcode in bits 11:8 and its operand in
bits 7:0; an operation without one is not well-formed and has neither an opcode nor a word. -/
def Statement (i : Instr) : Prop :=
  match i.arg with
  | some a =>
    WellFormed i ∧ ∃ w : CmdWord, encode i = some w ∧ opcode i = some (w.extractLsb' 8 4) ∧ w.extractLsb' 0 8 = a
  | none => ¬ WellFormed i ∧ opcode i = none ∧ encode i = none

/-- The shape all commands share. -/
theorem of_command {i : Instr} {op : BitVec 4} {a : Arg} (ha : i.arg = some a) (hw : WellFormed i)
    (ho : opcode i = some op) : Statement i := by
  have he : encode i = some (op ++ a) := by simp [encode, ha, ho]
  simp only [Statement, ha]
  exact ⟨hw, op ++ a, he, by rw [ho, opField_append], argField_append op a⟩

theorem init (a : Arg) : Statement (.init a) := of_command rfl rfl rfl
theorem enable (a : Arg) : Statement (.enable a) := of_command rfl rfl rfl
theorem disable (a : Arg) : Statement (.disable a) := of_command rfl rfl rfl
theorem available (a : Arg) : Statement (.available a) := of_command rfl rfl rfl
theorem read (a : Arg) : Statement (.read a) := of_command rfl rfl rfl
theorem lost (a : Arg) : Statement (.lost a) := of_command rfl rfl rfl
theorem resetLost (a : Arg) : Statement (.resetLost a) := of_command rfl rfl rfl
theorem setGain (sel : Arg) : Statement (.setGain sel) := of_command rfl rfl rfl
theorem powerDown (a : Arg) : Statement (.powerDown a) := of_command rfl rfl rfl
theorem powerUp (a : Arg) : Statement (.powerUp a) := of_command rfl rfl rfl
theorem reserved10 (a : Arg) : Statement (.reserved10 a) := of_command rfl rfl rfl
theorem reserved11 (a : Arg) : Statement (.reserved11 a) := of_command rfl rfl rfl
theorem reserved12 (a : Arg) : Statement (.reserved12 a) := of_command rfl rfl rfl
theorem reserved13 (a : Arg) : Statement (.reserved13 a) := of_command rfl rfl rfl
theorem reserved14 (a : Arg) : Statement (.reserved14 a) := of_command rfl rfl rfl
theorem reserved15 (a : Arg) : Statement (.reserved15 a) := of_command rfl rfl rfl
theorem handler : Statement .handler := ⟨by decide, rfl, rfl⟩

end Sys2Proof.Laws.WordFields
end

