-- ==== Sys2Proof/Laws/Queue.lean ====
section
/-! SUPPORT. The ring buffer as a queue (R120): what `push` and `pop` do to its contents, oldest first. -/

namespace Sys2Proof.Machine

/-- The contents depend on `head`, `count` and the storage alone. -/
theorem State.contents_congr {s t : State} (hh : t.head = s.head) (hc : t.count = s.count) (hb : t.buf = s.buf) :
    t.contents = s.contents := by
  simp only [State.contents, State.windowSlot, State.slot, hh, hc, hb]

theorem State.contents_of_count_zero {s : State} (h : s.count = 0) : s.contents = [] := by
  simp [State.contents, h]

/-- The free slot a push writes is outside the window. -/
theorem State.windowSlot_ne_pushSlot {s : State} {k : Nat} (hk : k < s.count.toNat) (hc : s.count.toNat < 8) :
    s.windowSlot k ≠ s.pushSlot := by
  intro e
  have e := congrArg BitVec.toNat e
  rw [State.pushSlot_toNat, State.windowSlot_toNat] at e
  omega

/-- A push on a buffer that is not full adds the sample at the end (R121). -/
theorem State.contents_push {s : State} (v : Word) (h : s.count.toNat < 8) :
    (s.push v).contents = s.contents ++ [v] := by
  rcases s.push_cases v with ⟨-, e⟩ | ⟨h', -⟩
  · have hn : (s.count + 1).toNat = s.count.toNat + 1 := by simp; omega
    rw [e]
    simp only [State.contents, hn, List.range_succ, List.map_append, List.map_cons, List.map_nil]
    congr 1
    · refine List.map_congr_left fun k hk => ?_
      exact s.slot_write_other v _ (State.windowSlot_ne_pushSlot (List.mem_range.1 hk) h)
    · congr 1
      exact s.slot_write_same _ v _
  · omega

/-- The window behind the oldest slot. -/
theorem State.contents_tail {s t : State} (hc : s.count.toNat ≠ 0) (hh : t.head = nextSlot s.head)
    (hn : t.count = s.count - 1) (hb : t.buf = s.buf) : s.contents = s.slot s.head :: t.contents := by
  have hlt := s.count.isLt
  obtain ⟨n, hs⟩ : ∃ n, s.count.toNat = n + 1 := ⟨s.count.toNat - 1, by omega⟩
  have ht : t.count.toNat = n := by rw [hn, BitVec.toNat_sub, hs]; simp; omega
  simp only [State.contents, hs, ht, List.range_succ_eq_map, List.map_cons, List.map_map, State.windowSlot_zero]
  congr 1
  refine List.map_congr_left fun k _ => ?_
  have : t.windowSlot k = s.windowSlot (k + 1) := by
    apply BitVec.eq_of_toNat_eq
    rw [State.windowSlot_toNat, State.windowSlot_toNat, hh, nextSlot_toNat]
    omega
  rw [this]
  exact (State.slot_congr hb _).symm

/-- A pop takes the first entry (R123). -/
theorem State.contents_pop {s t : State} {v : Word} (h : s.pop = some (v, t)) : s.contents = v :: t.contents := by
  rcases s.pop_cases with ⟨-, e⟩ | ⟨hc, e⟩
  · simp [e] at h
  · have hc' : s.count.toNat ≠ 0 := fun e => hc (BitVec.eq_of_toNat_eq e)
    rw [e] at h
    injection h with h
    injection h with hv ht
    subst ht; subst hv
    exact State.contents_tail hc' rfl rfl rfl

/-- A push on a full buffer loses the first entry, and the new one (R122). -/
theorem State.contents_push_full {s : State} (v : Word) (h : 8 ≤ s.count.toNat) :
    s.contents = s.slot s.head :: (s.push v).contents := by
  rcases s.push_cases v with ⟨h', -⟩ | ⟨-, e⟩
  · omega
  · rw [e]
    exact State.contents_tail (by omega) rfl rfl rfl

end Sys2Proof.Machine
end

