-- ==== Sys2Proof/Laws/Step.lean ====
section
/-! SUPPORT. What an operation answers in terms of the shared operations, what the micro-steps of the engine do, and the
inversion of a tick: said once, so that no proof about ticks unfolds `step`. -/

namespace Sys2Proof.Machine

/-! ## Operations -/

@[simp] theorem exec_init (a : Arg) (s : State) : exec (.init a) s =
    .next (State.respond { s with listening := false, head := 0, count := 0, lost := 0, pending := 1, last := 1 } true 0) :=
  rfl
@[simp] theorem exec_enable (a : Arg) (s : State) :
    exec (.enable a) s = .next (State.respond { s with listening := true } true 0) := rfl
@[simp] theorem exec_disable (a : Arg) (s : State) :
    exec (.disable a) s = .next (State.respond { s with listening := false } true 0) := rfl
@[simp] theorem exec_available (a : Arg) (s : State) :
    exec (.available a) s = .next (s.respond true (s.count.setWidth 32)) := rfl
@[simp] theorem exec_lost (a : Arg) (s : State) : exec (.lost a) s = .next (s.respond true s.lost) := rfl
@[simp] theorem exec_resetLost (a : Arg) (s : State) :
    exec (.resetLost a) s = .next (State.respond { s with lost := 0 } true 0) := rfl
@[simp] theorem exec_setGain (sel : Arg) (s : State) :
    exec (.setGain sel) s = .next ((s.setPending sel).respond true 0) := rfl
@[simp] theorem exec_powerDown (a : Arg) (s : State) :
    exec (.powerDown a) s = .next (State.respond { s with sck := true } true 0) := rfl
@[simp] theorem exec_powerUp (a : Arg) (s : State) : exec (.powerUp a) s =
    .next (State.respond { s with last := if s.sck then 1 else s.last, sck := false } true 0) := rfl
@[simp] theorem exec_reserved10 (a : Arg) (s : State) : exec (.reserved10 a) s = .next (s.respond false 0) := rfl
@[simp] theorem exec_reserved11 (a : Arg) (s : State) : exec (.reserved11 a) s = .next (s.respond false 0) := rfl
@[simp] theorem exec_reserved12 (a : Arg) (s : State) : exec (.reserved12 a) s = .next (s.respond false 0) := rfl
@[simp] theorem exec_reserved13 (a : Arg) (s : State) : exec (.reserved13 a) s = .next (s.respond false 0) := rfl
@[simp] theorem exec_reserved14 (a : Arg) (s : State) : exec (.reserved14 a) s = .next (s.respond false 0) := rfl
@[simp] theorem exec_reserved15 (a : Arg) (s : State) : exec (.reserved15 a) s = .next (s.respond false 0) := rfl
@[simp] theorem exec_handler (s : State) : exec .handler s = .next s.handlerEntry := rfl

/-- Everything `READ` can do (R128). -/
theorem exec_read_cases (a : Arg) (s : State) :
    (s.count ≠ 0 ∧ exec (.read a) s = .next (State.respond
      { s with head := nextSlot s.head, count := s.count - 1 } true (s.slot s.head))) ∨
    (s.count = 0 ∧ s.now.dout = false ∧ exec (.read a) s = .next (s.convStart .fg)) ∨
    (s.count = 0 ∧ s.now.dout = true ∧ exec (.read a) s = .next (s.respond false 0)) := by
  show _ ∧ execRead a s = _ ∨ _ ∧ _ ∧ execRead a s = _ ∨ _ ∧ _ ∧ execRead a s = _
  unfold execRead
  rcases s.pop_cases with ⟨h, e⟩ | ⟨h, e⟩
  · right
    cases hd : s.now.dout with
    | false => left; refine ⟨h, rfl, ?_⟩; simp [e]
    | true => right; refine ⟨h, rfl, ?_⟩; simp [e]
  · left; refine ⟨h, ?_⟩; simp [e]

/-! ## Inputs -/

theorem State.inputAt_congr {s t : State} (h : t.inputs = s.inputs) (h' : t.tick = s.tick) (j : Nat) :
    t.inputAt j = s.inputAt j := by
  simp only [State.inputAt, h, h']

theorem State.now_congr {s t : State} (h : t.inputs = s.inputs) (h' : t.tick = s.tick) : t.now = s.now :=
  State.inputAt_congr h h' 0

@[simp] theorem beginTick_now (s : State) : (beginTick s).now = s.now := State.now_congr rfl rfl

/-- A tick uses up one tick's inputs. -/
theorem State.inputAt_of_tail {s t : State} (h : t.inputs = s.inputs.tail) (h' : t.tick = s.tick + 1) (j : Nat) :
    t.inputAt j = s.inputAt (j + 1) := by
  have e : s.tick + 1 + j = s.tick + (j + 1) := by omega
  simp only [State.inputAt, h, h', List.drop_tail, e]

@[simp] theorem endTick_inputAt (s t : State) (j : Nat) : (endTick s t).inputAt j = s.inputAt (j + 1) :=
  State.inputAt_of_tail rfl rfl j

/-- The inputs listed first are those of this tick. -/
theorem State.now_of_cons {s : State} {i : TickInput} {rest : List TickInput} (h : s.inputs = i :: rest) : s.now = i := by
  simp [State.now, State.inputAt, h]

/-! ## The micro-steps of the engine -/

theorem convLow_cases (s : State) :
    (s.pulse.toNat + 1 < 24 + s.pending.toNat ∧
      convLow s = { s with pulse := s.pulse + 1, sck := true, eng := .high }) ∨
    (24 + s.pending.toNat ≤ s.pulse.toNat + 1 ∧ convLow s = convFinish s) := by
  unfold convLow pulsesOf
  simp only [Config.dataBits]
  by_cases h : s.pulse.toNat + 1 < 24 + s.pending.toNat
  · left; exact ⟨h, if_pos h⟩
  · right; exact ⟨by omega, if_neg h⟩

theorem convFinish_cases (s : State) :
    (s.origin = .fg ∧ convFinish s = s.convReturn.respond true s.sample) ∨
    (s.origin = .irq ∧ s.listening = true ∧ convFinish s = s.convReturn.push s.sample) ∨
    (s.origin = .irq ∧ s.listening = false ∧ convFinish s = s.convReturn) := by
  unfold convFinish
  cases ho : s.origin with
  | fg => left; exact ⟨rfl, rfl⟩
  | irq =>
    cases hl : s.listening with
    | true => right; left; exact ⟨rfl, rfl, rfl⟩
    | false => right; right; exact ⟨rfl, rfl, rfl⟩

/-- A push looks at no input. -/
theorem State.push_withInputs (s : State) (v : Word) (x : List TickInput) :
    State.push { s with inputs := x } v = { s.push v with inputs := x } := by
  rcases s.push_cases v with ⟨h, e⟩ | ⟨h, e⟩
  · rw [e]; exact if_pos h
  · rw [e]; exact if_neg (Nat.not_lt.2 h)

/-- The low tick looks at no input. -/
theorem convLow_inputs (s : State) (x : List TickInput) :
    convLow { s with inputs := x } = { convLow s with inputs := x } := by
  rcases convLow_cases s with ⟨h, e⟩ | ⟨h, e⟩
  · rw [e]; exact if_pos h
  · have e' : convLow { s with inputs := x } = convFinish { s with inputs := x } := if_neg (Nat.not_lt.2 h)
    rw [e, e']
    rcases convFinish_cases s with ⟨ho, e⟩ | ⟨ho, hl, e⟩ | ⟨ho, hl, e⟩ <;> rw [e]
    · simp [convFinish, ho]; rfl
    · have : convFinish { s with inputs := x } = State.push { s.convReturn with inputs := x } s.sample := by
        simp [convFinish, ho, hl]; rfl
      rw [this, State.push_withInputs]
    · simp [convFinish, ho, hl]; rfl
theorem State.finishing_iff (s : State) :
    s.finishing = true ↔ s.eng = .low ∧ 24 + s.pending.toNat ≤ s.pulse.toNat + 1 := by
  simp only [State.finishing, Bool.and_eq_true, decide_eq_true_eq, Bool.not_eq_true', decide_eq_false_iff_not,
    Nat.not_lt]

/-- With the engine running, no event stands at the end of the tick (R173). -/
theorem evtPendNext_busy (s : State) {t : State} (h : t.eng ≠ .idle) : evtPendNext s t = false := by
  simp [evtPendNext, State.notifyEn, h]

/-! ## The inversion of a tick -/

/-- Everything a tick can do (R181): which activity it was and what state it left. -/
theorem step_cases {s t : State} (h : step s = .next t) :
    (s.now.rstN = false ∧ t = hardReset s) ∨
    (s.now.rstN = true ∧ s.eng = .high ∧ t = endTick s (convHigh (beginTick s))) ∨
    (s.now.rstN = true ∧ s.eng = .low ∧ t = endTick s (convLow (beginTick s))) ∨
    (s.now.rstN = true ∧ s.eng = .idle ∧ ∃ i u, activity s = .run i ∧ exec i (beginTick s) = .next u ∧ t = endTick s u) ∨
    (s.now.rstN = true ∧ s.eng = .idle ∧ activity s = .nothing ∧ t = endTick s (beginTick s)) := by
  unfold step at h
  cases hr : s.now.rstN with
  | false => left; simp [hr] at h; exact ⟨rfl, h.symm⟩
  | true =>
    right
    simp only [hr, if_true] at h
    cases he : s.eng with
    | high => left; simp [activity, he] at h; exact ⟨rfl, rfl, h.symm⟩
    | low => right; left; simp [activity, he] at h; exact ⟨rfl, rfl, h.symm⟩
    | idle =>
      right; right
      cases ha : activity s with
      | convHigh => exfalso; simp only [activity, he] at ha; split at ha <;> [skip; split at ha] <;> simp at ha
      | convLow => exfalso; simp only [activity, he] at ha; split at ha <;> [skip; split at ha] <;> simp at ha
      | nothing => right; simp [ha] at h; exact ⟨rfl, rfl, rfl, h.symm⟩
      | run i =>
        left
        simp only [ha] at h
        refine ⟨rfl, rfl, i, ?_⟩
        cases hx : exec i (beginTick s) with
        | next u => exact ⟨u, rfl, rfl, by simpa [hx, endOperation, eq_comm] using h⟩
        | fault f => cases f
        | refused r => simp [hx, endOperation] at h

/-- Which operation an idle tick runs (R182, R185). -/
theorem activity_run_iff {s : State} (he : s.eng = .idle) (i : Instr) :
    activity s = .run i ↔
      (s.evtPend = true ∧ i = .handler) ∨
      (s.evtPend = false ∧ s.now.cmdValid = true ∧ decodeWord s.now.cmdWord = i) := by
  simp only [activity, he]
  cases s.evtPend <;> cases s.now.cmdValid <;> simp [eq_comm]

/-- An accepted command's tick. -/
theorem step_of_accepts {s u : State} {i : Instr} (h : Accepts s i) (hx : exec i (beginTick s) = .next u) :
    step s = .next (endTick s u) := by
  obtain ⟨hr, hv, hc, hd⟩ := h
  simp only [State.cmdReady, Bool.and_eq_true, decide_eq_true_eq, Bool.not_eq_true'] at hc
  simp [step, hr, (activity_run_iff hc.1 i).2 (.inr ⟨hc.2, hv, hd⟩), hx, endOperation]

/-- A dispatching tick (R174). -/
theorem step_of_dispatch {s : State} (hr : s.now.rstN = true) (he : s.eng = .idle) (hp : s.evtPend = true) :
    step s = .next (endTick s (beginTick s).handlerEntry) := by
  simp [step, hr, (activity_run_iff he .handler).2 (.inl ⟨hp, rfl⟩), endOperation]

theorem step_of_high {s : State} (hr : s.now.rstN = true) (he : s.eng = .high) :
    step s = .next (endTick s (convHigh (beginTick s))) := by
  simp [step, hr, activity, he]

theorem step_of_low {s : State} (hr : s.now.rstN = true) (he : s.eng = .low) :
    step s = .next (endTick s (convLow (beginTick s))) := by
  simp [step, hr, activity, he]

/-! ## Runs -/

theorem ticks_succ {s t : State} (h : step s = .next t) (k : Nat) : ticks (k + 1) s = ticks k t := by
  simp [ticks, h]

/-- A run is a run after a run. -/
theorem ticks_add {s t : State} {j : Nat} (k : Nat) (h : ticks j s = .next t) : ticks (j + k) s = ticks k t := by
  induction j generalizing s with
  | zero => simp only [ticks, Host.Outcome.next.injEq] at h; simp [h]
  | succ j ih =>
    rw [show j + 1 + k = (j + k) + 1 by omega]
    simp only [ticks] at h ⊢
    cases hs : step s with
    | next u => simp only [hs] at h ⊢; exact ih h
    | fault f => cases f
    | refused r => simp [hs] at h

/-- The model's run is the host's. -/
theorem ticks_eq_run (k : Nat) (s : State) : ticks k s = Host.Core.run
    { State := State, Fault := Fault, Refusal := Refusal, step := step, reset := State.reset } k s := by
  induction k generalizing s with
  | zero => rfl
  | succ k ih =>
    simp only [ticks, Host.Core.run]
    cases step s with
    | next t => exact ih t
    | fault f => rfl
    | refused r => rfl

end Sys2Proof.Machine
end

