-- ==== Sys2Proof/Tests/Slice0.lean ====
section
/-! SUPPORT. The model's own tests. Expected values come from `spec/95_test_vectors.md` (the vector is named beside each
test) and from the encodings of `spec/30_encoding.md` R60, R61. The last part shows, for every obligation that has
hypotheses, states and operands that meet them, clause by clause. -/

namespace Sys2Proof.Tests

open Sys2Proof.Machine

/-! ## Well-formedness: the one ill-formed term -/

/-- R64: `HANDLER` is not presented on the command port. -/
theorem test_wellformed_refuses_handler : ¬ WellFormed .handler := by decide
theorem test_wellformed_accepts_reserved : WellFormed (.reserved15 0xFF) := by decide
theorem test_encode_has_no_word_for_handler : encode .handler = none := by decide

/-! ## Decoding: `op` in bits 11:8, `arg` in bits 7:0, written out bit by bit -/

theorem test_decode_init : decodeWord 0b000000000000#12 = .init 0b00000000#8 := by decide
theorem test_decode_enable : decodeWord 0b000110100111#12 = .enable 0b10100111#8 := by decide
theorem test_decode_disable : decodeWord 0b001000000001#12 = .disable 0b00000001#8 := by decide
theorem test_decode_available : decodeWord 0b001111111111#12 = .available 0b11111111#8 := by decide
theorem test_decode_read : decodeWord 0b010010000000#12 = .read 0b10000000#8 := by decide
theorem test_decode_lost : decodeWord 0b010101010101#12 = .lost 0b01010101#8 := by decide
theorem test_decode_resetLost : decodeWord 0b011000000000#12 = .resetLost 0b00000000#8 := by decide
theorem test_decode_setGain : decodeWord 0b011110000001#12 = .setGain 0b10000001#8 := by decide
theorem test_decode_powerDown : decodeWord 0b100000000010#12 = .powerDown 0b00000010#8 := by decide
theorem test_decode_powerUp : decodeWord 0b100101000000#12 = .powerUp 0b01000000#8 := by decide
theorem test_decode_reserved10 : decodeWord 0b101000000000#12 = .reserved10 0b00000000#8 := by decide
theorem test_decode_reserved11 : decodeWord 0b101101111111#12 = .reserved11 0b01111111#8 := by decide
theorem test_decode_reserved12 : decodeWord 0b110000000000#12 = .reserved12 0b00000000#8 := by decide
theorem test_decode_reserved13 : decodeWord 0b110100000001#12 = .reserved13 0b00000001#8 := by decide
theorem test_decode_reserved14 : decodeWord 0b111010000000#12 = .reserved14 0b10000000#8 := by decide
theorem test_decode_reserved15 : decodeWord 0b111101010101#12 = .reserved15 0b01010101#8 := by decide
theorem test_decode_rejects_13_bits : decode 0x1000 = .error (.widerThanCommandWord 0x1000) := by rfl
theorem test_table_word : decodeTableWord 16 0x7C8 = some (.setGain 200) ∧ decodeTableWord 16 0x1000 = none ∧
    decodeTableWord 0 0 = none := by decide
/-- R76. -/
theorem test_assemble_operand_only_after_setGain :
    assemble "READ" (.number 0) = .error .operandNotAllowed ∧
    assemble "SET_GAIN" (.number 256) = .error (.operandOutOfRange 256) ∧
    assemble "HANDLER" .absent = .error (.unknownMnemonic "HANDLER") := by
  refine ⟨by rfl, by rfl, by rfl⟩

/-! ## One tick -/

/-- The inputs of a tick out of reset with no command presented. -/
def quiet (dout : Bool) : TickInput := ⟨true, dout, false, 0⟩

/-- The inputs of a tick out of reset that presents `w`. -/
def cmd (w : CmdWord) (dout : Bool) : TickInput := ⟨true, dout, true, w⟩

/-- The inputs of a tick in reset. -/
def inReset : TickInput := ⟨false, true, false, 0⟩

/-- `s` with the inputs of its first ticks. -/
def seeing (i : List TickInput) (s : State) : State := { s with inputs := i }

/-- The next state, if the step has one. -/
def after (r : Result) : Option State :=
  match r with
  | .next t => some t
  | _ => none

/-- What a test reads of the next state. -/
def reads {α : Type} (f : State → α) (s : State) : Option α := (after (step s)).map f

/-- The response of a tick. -/
structure Response where
  valid : Bool
  ok    : Bool
  data  : Word
deriving DecidableEq, Repr

def response (s : State) : Response := ⟨s.rspValid, s.rspOk, s.rspData⟩

/-- The registers of the buffer and the counter. -/
structure BufferRegs where
  head  : SlotIdx
  count : BitVec 4
  lost  : Word
deriving DecidableEq, Repr

def bufferRegs (s : State) : BufferRegs := ⟨s.head, s.count, s.lost⟩

/-- A full buffer of the samples 0x40000001 to 0x40000008 (section 2.2). -/
def full : State :=
  { State.reset with
    count := 8, listening := true, doutPrev := false
    buf := [(0, 0x40000001#32), (1, 0x40000002#32), (2, 0x40000003#32), (3, 0x40000004#32), (4, 0x40000005#32),
      (5, 0x40000006#32), (6, 0x40000007#32), (7, 0x40000008#32)] }

/-- The low tick of pulse 24 of a conversion of the handler, `pending = 1` (E8). -/
def atFinish (acc : Reading) (s : State) : State :=
  seeing [quiet true] { s with eng := .low, sck := false, pulse := 24, acc := acc, origin := .irq }

/-- A state with an event pending. -/
def withEvent (s : State) : State := { s with evtPend := true, listening := true }

/-- W1. -/
theorem test_init_restores_data_model :
    after (step
      (seeing [cmd 0x000 false] { full with sck := true, pending := 3, last := 2, head := 2, count := 5, lost := 9 })) =
    some { State.reset with
      sck := true, buf := full.buf, doutPrev := false, rspValid := true, rspOk := true, tick := 1 } := by decide

/-- W5: `arg` is ignored. -/
theorem test_enable_ignores_arg :
    reads (fun t => (t.listening, response t)) (seeing [cmd 0x1A7 true] State.reset) =
    some (true, ⟨true, true, 0⟩) := by decide

/-- RD2: the transition of the accepting tick is not recorded, the mask was closed in it. -/
theorem test_enable_drops_its_own_edge :
    reads (fun t => (t.evtPend, t.listening, t.doutPrev)) (seeing [cmd 0x100 false] State.reset) =
    some (false, true, false) := by decide

/-- W6. -/
theorem test_disable_keeps_the_rest :
    reads (fun t => (t.listening, t.sck, bufferRegs t, response t))
      (seeing [cmd 0x200 false] { full with count := 4, lost := 2 }) =
    some (false, false, ⟨0, 4, 2⟩, ⟨true, true, 0⟩) := by decide

/-- RD3: the transition of the accepting tick is dropped. -/
theorem test_disable_drops_its_edge :
    reads (fun t => (t.listening, t.evtPend, t.doutPrev))
      (seeing [cmd 0x200 false] { State.reset with listening := true }) =
    some (false, false, false) := by decide

/-- B10. -/
theorem test_available_answers_count :
    reads response (seeing [cmd 0x300 true] full) = some ⟨true, true, 8⟩ := by decide

/-- B6: `head` wraps; the slot keeps its value. -/
theorem test_read_pops_and_wraps :
    reads (fun t => (bufferRegs t, t.buf, response t))
      (seeing [cmd 0x400 true]
        { State.reset with head := 7, count := 2, buf := [(0, 0x40000001#32), (7, 0x80123456#32)] }) =
    some (⟨0, 1, 0⟩, [(0, 0x40000001#32), (7, 0x80123456#32)], ⟨true, true, 0x80123456#32⟩) := by decide

/-- B8. -/
theorem test_read_starts_a_conversion :
    reads (fun t => (t.eng, t.sck, t.pulse, t.acc, t.origin, response t))
      (seeing [cmd 0x400 false] { State.reset with acc := 0xABCDEF }) =
    some (.high, true, 0, 0, .fg, ⟨false, false, 0⟩) := by decide

/-- B12. -/
theorem test_lost_answers_counter :
    reads (fun t => (t.lost, response t)) (seeing [cmd 0x500 true] { State.reset with lost := 2 }) =
    some (2, ⟨true, true, 2⟩) := by decide

/-- B13. -/
theorem test_resetLost_clears :
    reads (fun t => (t.lost, response t)) (seeing [cmd 0x600 true] { State.reset with lost := 0xFFFFFFFF }) =
    some (0, ⟨true, true, 0⟩) := by decide

/-- Section 3.3, 0x703. -/
theorem test_setGain_three :
    reads (fun t => (t.pending, t.last, response t)) (seeing [cmd 0x703 true] { State.reset with pending := 2 }) =
    some (3, 1, ⟨true, true, 0⟩) := by decide

/-- Section 3.3, 0x781: the low two bits are 01 and the operand is still invalid. -/
theorem test_setGain_compares_all_bits :
    reads (fun t => (t.pending, response t)) (seeing [cmd 0x781 true] { State.reset with pending := 2 }) =
    some (2, ⟨true, true, 0⟩) := by decide

/-- W7. -/
theorem test_powerDown_raises_sck :
    reads (fun t => (t.sck, t.last, response t)) (seeing [cmd 0x800 true] { State.reset with last := 3 }) =
    some (true, 3, ⟨true, true, 0⟩) := by decide

/-- W9. -/
theorem test_powerUp_of_a_high_line :
    reads (fun t => (t.sck, t.last, t.pending, response t))
      (seeing [cmd 0x900 true] { State.reset with sck := true, last := 3, pending := 3 }) =
    some (false, 1, 3, ⟨true, true, 0⟩) := by decide

/-- W10. -/
theorem test_powerUp_of_a_low_line :
    reads (fun t => (t.sck, t.last)) (seeing [cmd 0x900 true] { State.reset with last := 3, pending := 3 }) =
    some (false, 3) := by decide

/-- Section 3.6, the reserved words: the response, and no other change. -/
def reservedAnswer (w : CmdWord) : Bool :=
  decide (after (step (seeing [cmd w true] full)) =
    some { full with rspValid := true, doutPrev := true, evtPend := true, tick := 1 })

theorem test_reserved10 : reservedAnswer 0xA00 = true := by decide
theorem test_reserved11 : reservedAnswer 0xB7F = true := by decide
theorem test_reserved12 : reservedAnswer 0xC00 = true := by decide
theorem test_reserved13 : reservedAnswer 0xD01 = true := by decide
theorem test_reserved14 : reservedAnswer 0xE80 = true := by decide
theorem test_reserved15 : reservedAnswer 0xF55 = true := by decide

/-- E1. -/
theorem test_handler_starts_on_low :
    reads (fun t => (t.eng, t.sck, t.acc, t.pulse, t.origin, t.evtPend))
      (seeing [quiet false] (withEvent { State.reset with acc := 0xABCDEF, pulse := 24, origin := .fg })) =
    some (.high, true, 0, 0, .irq, false) := by decide

/-- E2: a rise in the dispatching tick is a new event. -/
theorem test_handler_on_high_records_a_rise :
    reads (fun t => (t.eng, t.sck, t.evtPend))
      (seeing [quiet true] (withEvent { State.reset with doutPrev := false })) =
    some (.idle, false, true) := by decide

/-- E4. -/
theorem test_high_shifts_the_last_bit :
    reads (fun t => (t.eng, t.acc, t.sck))
      (seeing [quiet true] { State.reset with eng := .high, pulse := 23, acc := 0x7FFFFF, sck := true }) =
    some (.low, 0xFFFFFF, false) := by decide

/-- E6. -/
theorem test_high_discards_an_extra_bit :
    reads (fun t => (t.eng, t.acc, t.sck))
      (seeing [quiet true] { State.reset with eng := .high, pulse := 24, acc := 0x123456, sck := true }) =
    some (.low, 0x123456, false) := by decide

/-- E9. -/
theorem test_low_raises_an_extra_pulse :
    reads (fun t => (t.eng, t.pulse, t.sck))
      (seeing [quiet true] { State.reset with eng := .low, pulse := 24, pending := 2 }) =
    some (.high, 25, true) := by decide

/-- E8. -/
theorem test_finish_stores :
    reads (fun t => (t.eng, t.buf, bufferRegs t, response t))
      (atFinish 0x123456 { State.reset with listening := true }) =
    some (.idle, [(0, 0x40123456#32)], ⟨0, 1, 0⟩, ⟨false, false, 0⟩) := by decide

/-- E11: the answer carries the old tag; nothing is pushed. -/
theorem test_finish_answers :
    reads (fun t => (t.last, t.count, response t))
      (seeing [quiet true]
        { full with eng := .low, pulse := 26, pending := 3, last := 2, acc := 0xFFFFFF, origin := .fg, count := 3 }) =
    some (3, 3, ⟨true, true, 0x80FFFFFF#32⟩) := by decide

/-- E12: the discard branch. -/
theorem test_finish_discards :
    reads (fun t => (t.last, t.count, t.buf, response t))
      (atFinish 0x10 { full with last := 3, listening := false, count := 2 }) =
    some (1, 2, full.buf, ⟨false, false, 0⟩) := by decide

/-- B1: the write address wraps. -/
theorem test_push_wraps :
    (State.push { State.reset with head := 6, count := 3 } 0x40000005#32).buf = [(1, 0x40000005#32)] := by decide

/-- B4: full, the counter saturated. -/
theorem test_push_on_full :
    (fun t : State => (bufferRegs t, t.buf)) (State.push { full with head := 7, lost := 0xFFFFFFFF } 0x40000999#32) =
    (⟨0, 7, 0xFFFFFFFF⟩, full.buf) := by decide

/-- A3: a command presented in a busy tick is not taken. -/
theorem test_busy_takes_no_command :
    after (step (seeing [cmd 0x000 true] { full with eng := .high, sck := true, pending := 3 })) =
    after (step (seeing [quiet true] { full with eng := .high, sck := true, pending := 3 })) := by decide

/-- R230. -/
theorem test_hardware_reset :
    after (step (seeing [inReset] { full with eng := .high, sck := true, evtPend := true })) =
    some { State.reset with buf := full.buf, tick := 1 } := by decide

/-- The word of a table row is placed so that the very next step runs it, on the state after reset too. -/
theorem test_withFetchWord_runs_it :
    reads (fun t => (t.pending, response t)) (State.reset.withFetchWord 16 0x703) = some (3, ⟨true, true, 0⟩) ∧
    reads (fun t => t.listening) (State.withFetchWord { full with eng := .low, evtPend := true } 16 0x200) =
      some false := by decide

/-! ## The hypotheses of every obligation are met

One theorem for each obligation with hypotheses, named after it. Each clause gets an input at a boundary of its range. -/

/-- The block accepts the word in this tick. -/
abbrev accepts (s : State) (w : CmdWord) (dout : Bool) : State := seeing [cmd w dout] s

theorem witness_ResetGivesTheTableState : (seeing [inReset] full).now.rstN = false := by decide

theorem witness_DecodeOfEncodeIsTheInstruction : WellFormed (.setGain 0xFF) := by decide

theorem witness_EncodeOfDecodeIsTheWord : 2 ^ 12 ≤ 4096 := by decide

theorem witness_AssemblesTheListedWords : 0 < 256 ∧ 255 < 256 := by decide

theorem witness_StepRunsTheDecodedCommand :
    (accepts full 0x7FF true).now.rstN = true ∧ (accepts full 0x7FF true).now.cmdValid = true ∧
    (accepts full 0x7FF true).cmdReady = true ∧
    decode (accepts full 0x7FF true).now.cmdWord.toNat = .ok (.setGain 0xFF) :=
  ⟨by decide, by decide, by decide, by rfl⟩

/-- A state in each of the four rows; the third has a command waiting behind the event. -/
theorem witness_StepRunsTheOtherActivities :
    (let s := seeing [quiet true] { full with eng := .high, sck := true }; s.now.rstN = true ∧ s.eng = .high) ∧
    ((atFinish 0 full).now.rstN = true ∧ (atFinish 0 full).eng = .low) ∧
    (let s := accepts (withEvent full) 0x400 true; s.now.rstN = true ∧ s.eng = .idle ∧ s.evtPend = true) ∧
    (let s := seeing [quiet true] full
     s.now.rstN = true ∧ s.eng = .idle ∧ s.evtPend = false ∧ s.now.cmdValid = false) := by decide

theorem witness_AcceptedIffPresentedAndReady :
    WellFormed (.read 0) ∧ activity (accepts full 0x400 true) = .run (.read 0) ∧
    activity (accepts (withEvent full) 0x400 true) ≠ .run (.read 0) := by decide

theorem witness_IgnoredArgumentChangesNothing : (8 : BitVec 4) ≠ 7 ∧ (6 : BitVec 4) ≠ 7 := by decide

theorem witness_InitRestoresTheDataModel : Accepts (accepts full 0x000 true) (.init 0) := by decide
theorem witness_EnableOpensTheMask : Accepts (accepts full 0x1FF true) (.enable 0xFF) := by decide
theorem witness_DisableClosesTheMask : Accepts (accepts full 0x200 true) (.disable 0) := by decide
theorem witness_AvailableAnswersTheCount : Accepts (accepts full 0x300 true) (.available 0) := by decide
theorem witness_LostAnswersTheCounter : Accepts (accepts full 0x500 true) (.lost 0) := by decide
theorem witness_ResetLostClearsTheCounter : Accepts (accepts full 0x600 true) (.resetLost 0) := by decide
theorem witness_PowerDownRaisesTheClockLine : Accepts (accepts full 0x800 true) (.powerDown 0) := by decide

/-- One for each level of the line before. -/
theorem witness_PowerUpResetsTheTagOfAHighLine :
    (let s := accepts full 0x900 true; Accepts s (.powerUp 0) ∧ s.sck = false) ∧
    (let s := accepts { full with sck := true } 0x900 true; Accepts s (.powerUp 0) ∧ s.sck = true) := by decide

theorem witness_ReadHasThreeCases :
    (let s := accepts { full with count := 1 } 0x400 false; s.count ≠ 0 ∧ Accepts s (.read 0)) ∧
    (let s := accepts State.reset 0x400 false; s.count = 0 ∧ s.now.dout = false ∧ Accepts s (.read 0)) ∧
    (let s := accepts State.reset 0x4FF true; s.count = 0 ∧ s.now.dout = true ∧ Accepts s (.read 0xFF)) := by decide

/-- The operands on both sides of the legal range. -/
theorem witness_SetGainTakesOnlyTheThreeCodes :
    Accepts (accepts full 0x700 true) (.setGain 0) ∧ Accepts (accepts full 0x701 true) (.setGain 1) ∧
    Accepts (accepts full 0x702 true) (.setGain 2) ∧ Accepts (accepts full 0x703 true) (.setGain 3) ∧
    Accepts (accepts full 0x704 true) (.setGain 4) := by decide

theorem witness_ReservedOpcodesAnswerNotOk :
    Accepts (accepts full 0xA00 true) (.reserved10 0) ∧ Accepts (accepts full 0xB00 true) (.reserved11 0) ∧
    Accepts (accepts full 0xC00 true) (.reserved12 0) ∧ Accepts (accepts full 0xD00 true) (.reserved13 0) ∧
    Accepts (accepts full 0xE00 true) (.reserved14 0) ∧ Accepts (accepts full 0xFFF true) (.reserved15 0xFF) := by
  decide

theorem witness_HandlerStartsAConversionOnALowLine :
    (let s := seeing [quiet false] (withEvent full)
     s.now.dout = false ∧ s.now.rstN = true ∧ s.eng = .idle ∧ s.evtPend = true) ∧
    (let s := seeing [quiet true] (withEvent full)
     s.now.dout = true ∧ s.now.rstN = true ∧ s.eng = .idle ∧ s.evtPend = true) := by decide

/-- The last data pulse and the first extra pulse, in their high ticks. -/
def highTick (p : BitVec 5) (s : State) : State := seeing [quiet true] { s with eng := .high, sck := true, pulse := p }

theorem witness_HighTickSamplesTheLine :
    ((highTick 23 full).now.rstN = true ∧ (highTick 23 full).eng = .high ∧ (highTick 23 full).pulse.toNat < 24) ∧
    ((highTick 24 full).now.rstN = true ∧ (highTick 24 full).eng = .high ∧ 24 ≤ (highTick 24 full).pulse.toNat) := by
  decide

theorem witness_LowTickRaisesTheNextPulse :
    (let s := { atFinish 0 full with pulse := 23 }
     s.now.rstN = true ∧ s.eng = .low ∧ s.pulse.toNat + 1 < 24 + s.pending.toNat) ∧
    ((atFinish 0 full).now.rstN = true ∧ (atFinish 0 full).eng = .low ∧
      24 + (atFinish 0 full).pending.toNat ≤ (atFinish 0 full).pulse.toNat + 1) := by decide

theorem witness_FinishCommitsAndDelivers :
    (let s := { atFinish 0 full with origin := .fg }; s.now.rstN = true ∧ s.finishing = true ∧ s.origin = .fg) ∧
    (let s := atFinish 0 { full with count := 7 }
     s.now.rstN = true ∧ s.finishing = true ∧ s.origin = .irq ∧ s.listening = true ∧ s.count.toNat < 8) ∧
    (let s := atFinish 0 full
     s.now.rstN = true ∧ s.finishing = true ∧ s.origin = .irq ∧ s.listening = true ∧ 8 ≤ s.count.toNat) ∧
    (let s := atFinish 0 { full with listening := false }
     s.now.rstN = true ∧ s.finishing = true ∧ s.origin = .irq ∧ s.listening = false) := by decide

theorem witness_PushStoresInTheNextSlot :
    State.reset.count.toNat < 8 ∧ ({ full with count := 7 } : State).count.toNat < 8 := by decide

theorem witness_PushOnAFullBufferFreesASlot : full.count = 8 := by decide

theorem witness_PopTakesTheOldest : State.reset.count = 0 ∧ full.count ≠ 0 := by decide

/-- A run of eight pushes, of nine (`j = 1`) and of ten (`j = 2`). -/
theorem witness_PushRunAlternatesDropAndStore :
    State.reset.count = 0 ∧ (List.replicate 8 0x40000000#32).length ≤ 8 ∧
    (List.replicate 9 0x40000000#32).length = 8 + 1 ∧ (List.replicate 10 0x40000000#32).length = 8 + 2 ∧ 1 ≤ 1 := by
  decide

theorem witness_PushedSamplesPopInOrder :
    State.reset.count = 0 ∧ (List.replicate 8 0x40000000#32).length ≤ 8 ∧
    (List.replicate 8 0x40000000#32).length ≤ 8 := by decide

/-- The state `full` with other inputs, and idle states that differ from it in the masked flags, meet the invariants. -/
theorem inv_full (i : List TickInput) : Inv (seeing i full) where
  count_le := (by decide : full.count.toNat ≤ 8)
  pending_legal := (by decide : full.pending ≠ 0)
  last_legal := (by decide : full.last ≠ 0)
  stored_samples := (by decide : ∀ x ∈ full.buf, IsSample x.2)
  evt_pend_masked := (by decide : full.evtPend = true → full.listening = true ∧ full.eng = .idle)
  high_clock := (by decide : full.eng = .high → full.sck = true)
  low_clock := (by decide : full.eng = .low → full.sck = false)
  window_written :=
    (by decide : ∀ k < full.count.toNat, (full.buf.read (full.windowSlot k).toNat).isSome = true)
  no_stale_response := (by decide : full.rspValid = false → full.rspOk = false ∧ full.rspData = 0)
  pulse_le := (by decide : full.eng ≠ .idle → full.pulse.toNat ≤ 23 + full.pending.toNat)
  irq_listening := (by decide : full.eng ≠ .idle → full.origin = .irq → full.listening = true)
  buf_wf := (by decide : full.buf.wf)

/-- A running conversion of the handler with a full buffer, in its last tick. -/
theorem inv_atFinish : Inv (atFinish 0 full) := by
  refine ⟨?_, ?_, ?_, ?_, ?_, ?_, ?_, ?_, ?_, ?_, ?_, ?_⟩ <;> decide

/-- The same with one slot free. -/
theorem inv_atFinish_seven : Inv (atFinish 0 { full with count := 7 }) := by
  refine ⟨?_, ?_, ?_, ?_, ?_, ?_, ?_, ?_, ?_, ?_, ?_, ?_⟩ <;> decide

/-- An event pending while listening and idle. -/
theorem inv_event (i : List TickInput) : Inv (seeing i (withEvent full)) :=
  { inv_full i with evt_pend_masked := fun _ => ⟨rfl, rfl⟩, irq_listening := fun _ _ => rfl }

theorem witness_EveryTickKeepsTheQueueOrder :
    (Inv (seeing [inReset] full) ∧ (∃ t, step (seeing [inReset] full) = .next t) ∧
      (seeing [inReset] full).now.rstN = false) ∧
    (Inv (accepts full 0x000 true) ∧ (∃ t, step (accepts full 0x000 true) = .next t) ∧
      (accepts full 0x000 true).now.rstN = true ∧ activity (accepts full 0x000 true) = .run (.init 0)) ∧
    (Inv (accepts full 0x400 true) ∧ (∃ t, step (accepts full 0x400 true) = .next t) ∧
      activity (accepts full 0x400 true) = .run (.read 0) ∧ (accepts full 0x400 true).count ≠ 0) ∧
    (Inv (atFinish 0 { full with count := 7 }) ∧ (∃ t, step (atFinish 0 { full with count := 7 }) = .next t) ∧
      (atFinish 0 { full with count := 7 }).finishing = true ∧
      (atFinish 0 { full with count := 7 }).contents.length < 8) ∧
    (Inv (atFinish 0 full) ∧ (∃ t, step (atFinish 0 full) = .next t) ∧ (atFinish 0 full).finishing = true ∧
      (atFinish 0 full).origin = .irq ∧ (atFinish 0 full).contents.length = 8) ∧
    (Inv (seeing [quiet true] full) ∧ (∃ t, step (seeing [quiet true] full) = .next t) ∧
      activity (seeing [quiet true] full) = .nothing ∧ (seeing [quiet true] full).finishing = false) :=
  ⟨⟨inv_full _, ⟨_, rfl⟩, rfl⟩, ⟨inv_full _, ⟨_, rfl⟩, rfl, by decide⟩, ⟨inv_full _, ⟨_, rfl⟩, by decide, by decide⟩,
    ⟨inv_atFinish_seven, ⟨_, rfl⟩, by decide, by decide⟩, ⟨inv_atFinish, ⟨_, rfl⟩, by decide, rfl, by decide⟩,
    ⟨inv_full _, ⟨_, rfl⟩, by decide, by decide⟩⟩

theorem witness_PendingLatchFollowsItsEquation :
    (let s := atFinish 0 full
     s.now.rstN = true ∧ (after (step s)).isSome = true ∧ s.finishing = true ∧ s.evtPend = false) ∧
    (let s := accepts State.reset 0x400 false
     s.now.rstN = true ∧ (after (step s)).isSome = true ∧ s.startsConversion = true) ∧
    (let s := seeing [quiet true] (withEvent full)
     s.now.rstN = true ∧ (after (step s)).isSome = true ∧ activity s = .run .handler ∧ s.now.dout = true ∧
     s.doutPrev = false ∧ s.listening = true) ∧
    (reads (fun t => t.evtPend) (seeing [quiet true] full) = some true) := by decide

/-- A tick with a response and a tick without one. -/
theorem witness_ResponseOnlyOfACompletedCommand :
    (let s := accepts full 0x300 true; s.now.rstN = true ∧ reads (fun t => t.rspValid) s = some true) ∧
    (let s := accepts State.reset 0x400 false; s.now.rstN = true ∧ reads (fun t => t.rspValid) s = some false) := by
  decide

/-- The port is closed by a conversion, and by an event. -/
theorem witness_ClosedPortHasNoInfluence :
    ((highTick 0 full).inputs = [quiet true] ∧ (highTick 0 full).cmdReady = false) ∧
    ((seeing [quiet true] (withEvent full)).inputs = [quiet true] ∧
      (seeing [quiet true] (withEvent full)).cmdReady = false) := by decide

theorem witness_LineIsIgnoredOutsideDataPulses :
    ((atFinish 0 full).inputs = [quiet true] ∧ (quiet true).rstN = true ∧ (atFinish 0 full).eng = .low) ∧
    ((highTick 24 full).inputs = [quiet true] ∧ (highTick 24 full).eng = .high ∧
      24 ≤ (highTick 24 full).pulse.toNat) := by decide

theorem witness_StepKeepsTheInvariants : Inv (atFinish 0 full) ∧ ∃ t, step (atFinish 0 full) = .next t :=
  ⟨inv_atFinish, _, rfl⟩

/-- The shift register at its largest in the last data pulse. -/
theorem witness_NoDataBitIsShiftedOut :
    let s := highTick 23 { full with acc := 0x7FFFFF }
    AccInv s ∧ (∃ t, step s = .next t) ∧ s.eng = .high ∧ s.pulse.toNat < 24 :=
  ⟨⟨by decide, by decide⟩, ⟨_, rfl⟩, rfl, by decide⟩

theorem witness_OperationsWriteOnlyWhatTheAccessTableGives :
    (after (exec .handler (seeing [quiet false] full))).isSome = true ∧
    (after (exec (.read 0) (seeing [quiet true] full))).isSome = true ∧
    (after (exec (.lost 0) (seeing [quiet true] full))).isSome = true := by decide

/-- Each of the writers, in a state where it changes the register. -/
theorem witness_SelectionsHaveTheNamedWriters :
    reads (fun t => t.pending) (accepts { full with pending := 2 } 0x000 true) = some 1 ∧
    reads (fun t => t.pending) (accepts full 0x703 true) = some 3 ∧
    reads (fun t => t.last) (atFinish 0 { full with last := 3 }) = some 1 ∧
    reads (fun t => t.last) (accepts { full with last := 3, sck := true } 0x900 true) = some 1 ∧
    reads (fun t => t.last) (accepts { full with last := 3 } 0x000 true) = some 1 := by decide

theorem witness_ModeBitsHaveTheNamedWriters :
    reads (fun t => t.listening) (accepts State.reset 0x100 true) = some true ∧
    reads (fun t => t.listening) (accepts full 0x200 true) = some false ∧
    reads (fun t => t.listening) (accepts full 0x000 true) = some false ∧
    reads (fun t => t.sck) (accepts full 0x800 true) = some true ∧
    reads (fun t => t.sck) (accepts { full with sck := true } 0x900 true) = some false ∧
    reads (fun t => t.sck) (seeing [quiet false] (withEvent full)) = some true := by decide

theorem witness_BufferAndCounterHaveTheNamedWriters :
    (let s := atFinish 5 { full with count := 7 }; s.slot 7 ≠ 0x40000005#32 ∧
      reads (fun t => t.slot 7) s = some 0x40000005#32) ∧
    reads (fun t => t.lost) (atFinish 0 full) = some 1 ∧
    reads (fun t => t.lost) (accepts { full with lost := 1 } 0x600 true) = some 0 ∧
    reads (fun t => t.lost) (accepts { full with lost := 1 } 0x000 true) = some 0 := by decide

theorem witness_BusyTicksKeepTheHostState :
    (let s := highTick 23 full
     s.now.rstN = true ∧ s.eng ≠ .idle ∧ (after (step s)).isSome = true ∧ s.finishing = false) ∧
    (let s := atFinish 0 full
     s.now.rstN = true ∧ s.eng ≠ .idle ∧ (after (step s)).isSome = true ∧ s.finishing = true) := by decide

theorem inv_finish_fg : Inv { atFinish 0 full with origin := .fg } := by
  refine ⟨?_, ?_, ?_, ?_, ?_, ?_, ?_, ?_, ?_, ?_, ?_, ?_⟩ <;> decide

/-- A `READ` from the buffer, and the finish of a conversion that a `READ` started. -/
theorem witness_AnsweredSamplesAreNeverZero :
    (Inv (accepts full 0x400 true) ∧ (accepts full 0x400 true).now.rstN = true ∧
      activity (accepts full 0x400 true) = .run (.read 0) ∧
      reads (fun t => t.rspOk) (accepts full 0x400 true) = some true) ∧
    (Inv { atFinish 0 full with origin := .fg } ∧ ({ atFinish 0 full with origin := .fg } : State).finishing = true ∧
      reads (fun t => t.rspOk) { atFinish 0 full with origin := .fg } = some true) :=
  ⟨⟨inv_full _, by decide, by decide, by decide⟩, inv_finish_fg, by decide, by decide⟩

theorem witness_ModeCommandsMoveTheNamedState :
    Accepts (accepts full 0x800 true) (.powerDown 0) ∧ Accepts (accepts full 0x900 true) (.powerUp 0) ∧
    Accepts (accepts { full with sck := true } 0x100 true) (.enable 0) ∧
    Accepts (accepts { full with sck := true } 0x200 true) (.disable 0) := by decide

/-- The shortest and the longest tick the bounds allow. -/
theorem witness_PowerDownWaitIsLongEnough : TimingBudget 100 100 ∧ TimingBudget 49999 0 := by decide

/-! ### Runs: the inputs are listed as long as the premises look at them -/

/-- A conversion of each origin at its first tick, `pending` at its smallest and at its largest. -/
def converting (o : Origin) (g : Selection) : State :=
  seeing (List.replicate 60 (quiet true)) { full with eng := .high, sck := true, pulse := 0, origin := o, pending := g }

theorem witness_ConversionIsOneEvent :
    (AtConversionStart (converting .fg 1) ∧ OutOfReset (2 * (24 + (converting .fg 1).pending.toNat)) (converting .fg 1)) ∧
    (AtConversionStart (converting .irq 3) ∧
      OutOfReset (2 * (24 + (converting .irq 3).pending.toNat)) (converting .irq 3) ∧
      (converting .irq 3).listening = true) ∧
    (AtConversionStart { converting .irq 1 with listening := false } ∧
      OutOfReset 50 { converting .irq 1 with listening := false }) := by decide

/-- The first pulse and the last. -/
theorem witness_ConversionDrivesItsPulses :
    AtConversionStart (converting .irq 3) ∧ OutOfReset (2 * (24 + 3)) (converting .irq 3) ∧
    (converting .irq 3).pending.toNat = 3 ∧ 0 < 24 + 3 ∧ 26 < 24 + 3 := by decide

/-- A `READ` on an empty buffer with a low line, `dout` low for as long as is asked. -/
def reading (s : State) : State := seeing (cmd 0x400 false :: List.replicate 60 (quiet false)) { s with count := 0 }

theorem witness_RisingEdgesOfAConversion :
    ((reading full).startsConversion = true ∧ OutOfReset (1 + 2 * (24 + 1)) (reading full) ∧
      (reading full).powerDownHazard = false) ∧
    ((reading { full with sck := true }).startsConversion = true ∧
      OutOfReset (1 + 2 * (24 + 1)) (reading { full with sck := true }) ∧
      (reading { full with sck := true }).powerDownHazard = true) := by decide

theorem witness_FallbackReadAnswersTheSample :
    let s := reading { full with pending := 3 }
    Accepts s (.read 0) ∧ s.count = 0 ∧ s.now.dout = false ∧ OutOfReset (1 + 2 * (24 + s.pending.toNat)) s := by decide

/-- With one slot free, and with none. -/
theorem witness_HandlerConversionDeliversTheSample :
    (let s := seeing (List.replicate 60 (quiet false)) (withEvent { full with count := 7 })
     s.now.rstN = true ∧ s.eng = .idle ∧ s.evtPend = true ∧ s.listening = true ∧ s.now.dout = false ∧
     OutOfReset (1 + 2 * (24 + s.pending.toNat)) s ∧ s.count.toNat < 8) ∧
    (let s := seeing (List.replicate 60 (quiet false)) (withEvent full)
     s.now.rstN = true ∧ s.eng = .idle ∧ s.evtPend = true ∧ s.listening = true ∧ s.now.dout = false ∧
     OutOfReset (1 + 2 * (24 + s.pending.toNat)) s ∧ s.count = 8) := by decide

/-- `SET_GAIN 3`, then a `READ` held on the port with `dout` low. -/
theorem witness_TagLagsByOneConversion :
    let s := seeing (cmd 0x703 true :: List.replicate 120 (cmd 0x400 false)) State.reset
    selectionOf 3 = some 3 ∧ Accepts s (.setGain 3) ∧ s.listening = false ∧ s.count = 0 ∧
    OutOfReset (3 + 4 * (24 + 3)) s ∧
    (s.inputAt 1).cmdValid = true ∧ decodeWord (s.inputAt 1).cmdWord = .read 0 ∧ (s.inputAt 1).dout = false ∧
    (s.inputAt 56).cmdValid = true ∧ decodeWord (s.inputAt 56).cmdWord = .read 0 ∧ (s.inputAt 56).dout = false := by
  decide

/-- A5: an event pending, the line high. -/
theorem witness_HeldCommandIsAcceptedWithin56Ticks :
    let s := seeing (List.replicate 60 (cmd 0x400 true)) (withEvent full)
    Inv s ∧ HoldsCommand 56 0x400 s ∧ OutOfReset 57 s := by
  refine ⟨inv_event _, ?_, ?_⟩ <;> decide

end Sys2Proof.Tests
end

section
/-! SUPPORT. The proofs about the state (`10_state.md`): what every operation and every micro-step leaves unchanged, who
writes each register (R15 to R25), and the invariants of R28. -/

namespace Sys2Proof.Machine

/-! ## What the operations leave unchanged (R25) -/

/-- No operation stores to the buffer (R46). -/
theorem exec_buf {i : Instr} {s t : State} (h : exec i s = .next t) : t.buf = s.buf := by
  cases i with
  | read a =>
    rcases exec_read_cases a s with ⟨-, e⟩ | ⟨-, -, e⟩ | ⟨-, -, e⟩ <;> rw [e] at h <;> cases h <;> rfl
  | _ => cases h; simp

/-- Settles O41: `READ` in the three cases of R128, every other operation by the one state it answers. -/
theorem operationsWriteOnlyWhatTheAccessTableGives : Obligations.OperationsWriteOnlyWhatTheAccessTableGives := by
  intro i s t h
  cases i with
  | read a =>
    rcases exec_read_cases a s with ⟨-, e⟩ | ⟨-, -, e⟩ | ⟨-, -, e⟩ <;> rw [e] at h <;> cases h <;> simp [State.slot]
  | _ => cases h; simp [State.slot]

/-- The setter takes the three legal codes and no other operand (R62, R141). -/
theorem selectionOf_eq_some {sel : Arg} {g : Selection} (h : selectionOf sel = some g) :
    (sel = 1 ∨ sel = 2 ∨ sel = 3) ∧ g = sel.extractLsb' 0 2 := by
  unfold selectionOf at h
  split at h
  · exact ⟨‹_›, (Option.some.inj h).symm⟩
  · cases h

/-- An operation that changes `pending` writes a legal selection (R15, R140). -/
theorem exec_pending_writers {i : Instr} {s t : State} (h : exec i s = .next t) (hne : t.pending ≠ s.pending) :
    (∃ a, i = .init a ∧ t.pending = 1) ∨
    ∃ sel, i = .setGain sel ∧ (sel = 1 ∨ sel = 2 ∨ sel = 3) ∧ t.pending = sel.extractLsb' 0 2 := by
  have frame := (operationsWriteOnlyWhatTheAccessTableGives i s t h).1
  cases i with
  | init a => cases h; exact .inl ⟨a, rfl, rfl⟩
  | setGain sel =>
    cases h
    refine .inr ⟨sel, rfl, ?_⟩
    rcases s.setPending_cases sel with ⟨g, hg, e⟩ | ⟨-, e⟩
    · obtain ⟨hsel, rfl⟩ := selectionOf_eq_some hg
      exact ⟨hsel, congrArg State.pending e⟩
    · exact absurd (congrArg State.pending e) hne
  | _ => exact absurd frame hne

/-- An operation that changes `last` writes the default selection (R16). -/
theorem exec_last_writers {i : Instr} {s t : State} (h : exec i s = .next t) (hne : t.last ≠ s.last) :
    (∃ a, i = .powerUp a ∧ s.sck = true ∧ t.last = 1) ∨ ∃ a, i = .init a ∧ t.last = 1 := by
  obtain ⟨-, frame, -⟩ := operationsWriteOnlyWhatTheAccessTableGives i s t h
  cases i with
  | init a => cases h; exact .inr ⟨a, rfl, rfl⟩
  | powerUp a =>
    cases h
    cases hs : s.sck with
    | true => exact .inl ⟨a, rfl, rfl, by simp⟩
    | false => simp [hs] at hne
  | _ => exact absurd frame hne

/-- Who writes the listening flag (R17). -/
theorem exec_listening_writers {i : Instr} {s t : State} (h : exec i s = .next t) (hne : t.listening ≠ s.listening) :
    (∃ a, i = .enable a ∧ t.listening = true) ∨ ∃ a, (i = .disable a ∨ i = .init a) ∧ t.listening = false := by
  obtain ⟨-, -, frame, -⟩ := operationsWriteOnlyWhatTheAccessTableGives i s t h
  cases i with
  | init a => cases h; exact .inr ⟨a, .inr rfl, rfl⟩
  | enable a => cases h; exact .inl ⟨a, rfl, rfl⟩
  | disable a => cases h; exact .inr ⟨a, .inl rfl, rfl⟩
  | _ => exact absurd frame hne

/-- Who writes the lost counter: no operation but the two that clear it (R20). -/
theorem exec_lost_writers {i : Instr} {s t : State} (h : exec i s = .next t) (hne : t.lost ≠ s.lost) :
    ∃ a, (i = .resetLost a ∨ i = .init a) ∧ t.lost = 0 := by
  obtain ⟨-, -, -, -, frame, -⟩ := operationsWriteOnlyWhatTheAccessTableGives i s t h
  cases i with
  | init a => cases h; exact ⟨a, .inr rfl, rfl⟩
  | resetLost a => cases h; exact ⟨a, .inl rfl, rfl⟩
  | _ => exact absurd frame hne

/-- An operation starts a conversion on a low line (R92, R99, R128 case 2), or leaves the engine as it is; then only the
two power commands drive the clock line (R156, R157). -/
theorem exec_engine_cases {i : Instr} {s t : State} (h : exec i s = .next t) :
    (s.now.dout = false ∧ (i = .handler ∧ t.origin = .irq ∨ (∃ a, i = .read a ∧ s.count = 0) ∧ t.origin = .fg) ∧
      t.eng = .high ∧ t.pulse = 0 ∧ t.sck = true) ∨
    (t.eng = s.eng ∧ t.pulse = s.pulse ∧ t.origin = s.origin ∧
      (t.sck = s.sck ∨ (∃ a, i = .powerDown a ∧ t.sck = true) ∨ ∃ a, i = .powerUp a ∧ t.sck = false)) := by
  cases i with
  | read a =>
    rcases exec_read_cases a s with ⟨-, e⟩ | ⟨hc, hd, e⟩ | ⟨-, -, e⟩ <;> rw [e] at h <;> cases h
    · exact .inr ⟨rfl, rfl, rfl, .inl rfl⟩
    · exact .inl ⟨hd, .inr ⟨⟨a, rfl, hc⟩, rfl⟩, rfl, rfl, rfl⟩
    · exact .inr ⟨rfl, rfl, rfl, .inl rfl⟩
  | handler =>
    cases h
    rcases s.handlerEntry_cases with ⟨-, e⟩ | ⟨hd, e⟩ <;> rw [e]
    · exact .inr ⟨rfl, rfl, rfl, .inl rfl⟩
    · exact .inl ⟨hd, .inl ⟨rfl, rfl⟩, rfl, rfl, rfl⟩
  | _ => cases h; simp

/-- An operation answers, or leaves the response registers as they are (R63, R186). -/
theorem exec_response_cases {i : Instr} {s t : State} (h : exec i s = .next t) :
    t.rspValid = true ∨ (t.rspValid = s.rspValid ∧ t.rspOk = s.rspOk ∧ t.rspData = s.rspData) := by
  cases i with
  | read a =>
    rcases exec_read_cases a s with ⟨-, e⟩ | ⟨-, -, e⟩ | ⟨-, -, e⟩ <;> rw [e] at h <;> cases h <;> simp
  | _ => cases h; simp

/-! ## What the micro-steps of the engine leave unchanged (R93 to R96) -/

/-- The fields a finish writes whoever started the conversion, and the two the host owns (R96, R207). -/
theorem convFinish_frame (s : State) :
    (convFinish s).eng = .idle ∧ (convFinish s).last = s.pending ∧ (convFinish s).pending = s.pending ∧
    (convFinish s).listening = s.listening := by
  rcases convFinish_cases s with ⟨-, e⟩ | ⟨-, -, e⟩ | ⟨-, -, e⟩ <;> simp [e]

/-- Where a push stores (R46, R121). -/
theorem State.push_slot_writers {s : State} {v : Word} {a : SlotIdx} (hne : (s.push v).slot a ≠ s.slot a) :
    s.count.toNat < 8 ∧ a = s.pushSlot ∧ (s.push v).slot a = v := by
  rcases s.push_cases v with ⟨hc, e⟩ | ⟨-, e⟩ <;> rw [e] at hne ⊢
  · by_cases ha : a = s.pushSlot
    · subst ha; exact ⟨hc, rfl, s.slot_write_same _ v _⟩
    · exact absurd (s.slot_write_other v _ ha) hne
  · exact absurd rfl hne

/-- When a push counts a loss (R122, R126). -/
theorem State.push_lost_writers {s : State} {v : Word} (hne : (s.push v).lost ≠ s.lost) :
    8 ≤ s.count.toNat ∧ (s.push v).lost = satInc s.lost := by
  rcases s.push_cases v with ⟨-, e⟩ | ⟨hc, e⟩ <;> rw [e] at hne ⊢
  · exact absurd rfl hne
  · exact ⟨hc, rfl⟩

/-- A finish that changes a slot stored the sample of a handler conversion (R96, R121). -/
theorem convFinish_slot_writers {s : State} {a : SlotIdx} (hne : (convFinish s).slot a ≠ s.slot a) :
    s.origin = .irq ∧ s.listening = true ∧ s.count.toNat < 8 ∧ a = s.pushSlot ∧ (convFinish s).slot a = s.sample := by
  rcases convFinish_cases s with ⟨-, e⟩ | ⟨ho, hl, e⟩ | ⟨-, -, e⟩ <;> rw [e] at hne ⊢
  · exact absurd rfl hne
  · exact ⟨ho, hl, State.push_slot_writers (s := s.convReturn) hne⟩
  · exact absurd rfl hne

/-- A finish that changes the lost counter pushed on a full buffer (R96, R122). -/
theorem convFinish_lost_writers {s : State} (hne : (convFinish s).lost ≠ s.lost) :
    s.origin = .irq ∧ s.listening = true ∧ 8 ≤ s.count.toNat ∧ (convFinish s).lost = satInc s.lost := by
  rcases convFinish_cases s with ⟨-, e⟩ | ⟨ho, hl, e⟩ | ⟨-, -, e⟩ <;> rw [e] at hne ⊢
  · exact absurd rfl hne
  · exact ⟨ho, hl, State.push_lost_writers (s := s.convReturn) hne⟩
  · exact absurd rfl hne

/-! ## The ticks out of reset -/

/-- A running operation other than `HANDLER` is an accepted command (R185). -/
theorem accepts_of_activity_run {s : State} {i : Instr} (hr : s.now.rstN = true) (he : s.eng = .idle)
    (ha : activity s = .run i) (hi : i ≠ .handler) : Accepts s i := by
  rcases (activity_run_iff he i).1 ha with ⟨-, e⟩ | ⟨hp, hv, hd⟩
  · exact absurd e hi
  · exact ⟨hr, hv, by simp [State.cmdReady, he, hp], hd⟩

/-- The handler runs only of a pending event: no word decodes to it (R64, R182). -/
theorem evtPend_of_activity_handler {s : State} (he : s.eng = .idle) (ha : activity s = .run .handler) :
    s.evtPend = true := by
  rcases (activity_run_iff he .handler).1 ha with ⟨hp, -⟩ | ⟨-, -, hd⟩
  · exact hp
  · have harg := decodeWord_arg s.now.cmdWord
    rw [hd] at harg
    cases harg

/-- Everything a tick out of reset can do, the low tick split by whether it finishes the conversion (R94, R181). -/
theorem step_cases_outOfReset {s t : State} (hr : s.now.rstN = true) (h : step s = .next t) :
    (s.eng = .high ∧ s.finishing = false ∧ t = endTick s (convHigh (beginTick s))) ∨
    (s.eng = .low ∧ s.finishing = false ∧ s.pulse.toNat + 1 < 24 + s.pending.toNat ∧
      t = endTick s { beginTick s with pulse := s.pulse + 1, sck := true, eng := .high }) ∨
    (s.eng = .low ∧ s.finishing = true ∧ t = endTick s (convFinish (beginTick s))) ∨
    (s.eng = .idle ∧ s.finishing = false ∧
      ∃ i u, activity s = .run i ∧ exec i (beginTick s) = .next u ∧ t = endTick s u) ∨
    (s.eng = .idle ∧ s.finishing = false ∧ activity s = .nothing ∧ t = endTick s (beginTick s)) := by
  have notFinishing (he : s.eng ≠ .low) : s.finishing = false := by simp [State.finishing, he]
  rcases step_cases h with ⟨hr', -⟩ | ⟨-, he, ht⟩ | ⟨-, he, ht⟩ | ⟨-, he, hx⟩ | ⟨-, he, ha, ht⟩
  · rw [hr] at hr'; cases hr'
  · exact .inl ⟨he, notFinishing (by simp [he]), ht⟩
  · rcases convLow_cases (beginTick s) with ⟨hp, e⟩ | ⟨hp, e⟩ <;> rw [e] at ht
    · exact .inr (.inl ⟨he, by simpa [State.finishing, he] using hp, hp, ht⟩)
    · exact .inr (.inr (.inl ⟨he, s.finishing_iff.2 ⟨he, hp⟩, ht⟩))
  · exact .inr (.inr (.inr (.inl ⟨he, notFinishing (by simp [he]), hx⟩)))
  · exact .inr (.inr (.inr (.inr ⟨he, notFinishing (by simp [he]), ha, ht⟩)))

/-- Settles O42: an idle tick by the writers among the operations, a busy one by the frame of the engine. -/
theorem selectionsHaveTheNamedWriters : Obligations.SelectionsHaveTheNamedWriters := by
  intro s t hr h
  rcases step_cases_outOfReset hr h with ⟨-, -, rfl⟩ | ⟨-, -, -, rfl⟩ | ⟨-, hf, rfl⟩ | ⟨he, -, i, u, ha, hx, rfl⟩ |
    ⟨-, -, -, rfl⟩
  · exact ⟨absurd rfl, absurd rfl⟩
  · exact ⟨absurd rfl, absurd rfl⟩
  · obtain ⟨-, hlast, hpending, -⟩ := convFinish_frame (beginTick s)
    exact ⟨absurd hpending, fun _ => .inl ⟨hf, hlast⟩⟩
  · have accepted := accepts_of_activity_run hr he ha
    refine ⟨fun hne => ?_, fun hne => ?_⟩
    · rcases exec_pending_writers hx hne with ⟨a, rfl, hu⟩ | ⟨sel, rfl, hsel, hu⟩
      · exact .inl ⟨a, accepted nofun, hu⟩
      · exact .inr ⟨sel, accepted nofun, hsel, hu⟩
    · rcases exec_last_writers hx hne with ⟨a, rfl, hs, hu⟩ | ⟨a, rfl, hu⟩
      · exact .inr (.inl ⟨a, accepted nofun, hs, hu⟩)
      · exact .inr (.inr ⟨a, accepted nofun, hu⟩)
  · exact ⟨absurd rfl, absurd rfl⟩

/-- An operation that starts a conversion makes its tick one that starts a conversion. -/
theorem startsConversion_of_activity {s : State} {i : Instr} (hr : s.now.rstN = true) (hd : s.now.dout = false)
    (ha : activity s = .run i) (hi : i = .handler ∨ ∃ a, i = .read a ∧ s.count = 0) : s.startsConversion = true := by
  rcases hi with rfl | ⟨a, rfl, hc⟩
  · simp [State.startsConversion, State.ready, hr, hd, ha]
  · simp [State.startsConversion, State.ready, hr, hd, ha, hc]

/-- Settles O43: only an operation writes the listening flag, and only an operation moves the line of an idle block. -/
theorem modeBitsHaveTheNamedWriters : Obligations.ModeBitsHaveTheNamedWriters := by
  intro s t hr h
  rcases step_cases_outOfReset hr h with ⟨he, -, rfl⟩ | ⟨he, -, -, rfl⟩ | ⟨he, -, rfl⟩ | ⟨he, -, i, u, ha, hx, rfl⟩ |
    ⟨-, -, -, rfl⟩
  · exact ⟨absurd rfl, fun hidle => by simp [he] at hidle⟩
  · exact ⟨absurd rfl, fun hidle => by simp [he] at hidle⟩
  · obtain ⟨-, -, -, hlistening⟩ := convFinish_frame (beginTick s)
    exact ⟨absurd hlistening, fun hidle => by simp [he] at hidle⟩
  · have accepted := accepts_of_activity_run hr he ha
    refine ⟨fun hne => ?_, fun _ hne => ?_⟩
    · rcases exec_listening_writers hx hne with ⟨a, rfl, hu⟩ | ⟨a, rfl | rfl, hu⟩
      · exact .inl ⟨a, accepted nofun, hu⟩
      · exact .inr ⟨a, .inl (accepted nofun), hu⟩
      · exact .inr ⟨a, .inr (accepted nofun), hu⟩
    · rcases exec_engine_cases hx with ⟨hd, hi, -, -, hu⟩ | ⟨-, -, -, hu | ⟨a, rfl, hu⟩ | ⟨a, rfl, hu⟩⟩
      · rw [beginTick_now] at hd
        exact .inr (.inr ⟨startsConversion_of_activity hr hd ha (hi.imp And.left And.left), hu⟩)
      · exact absurd hu hne
      · exact .inl ⟨a, accepted nofun, hu⟩
      · exact .inr (.inl ⟨a, accepted nofun, hu⟩)
  · exact ⟨absurd rfl, fun _ => absurd rfl⟩

/-- Settles O44: no operation stores, a finish stores or counts by `push`. -/
theorem bufferAndCounterHaveTheNamedWriters : Obligations.BufferAndCounterHaveTheNamedWriters := by
  intro s t hr h
  rcases step_cases_outOfReset hr h with ⟨-, -, rfl⟩ | ⟨-, -, -, rfl⟩ | ⟨-, hf, rfl⟩ | ⟨he, -, i, u, ha, hx, rfl⟩ |
    ⟨-, -, -, rfl⟩
  · exact ⟨fun _ => absurd rfl, absurd rfl⟩
  · exact ⟨fun _ => absurd rfl, absurd rfl⟩
  · exact ⟨fun a hne => ⟨hf, convFinish_slot_writers (s := beginTick s) hne⟩,
      fun hne => .inr ⟨hf, convFinish_lost_writers (s := beginTick s) hne⟩⟩
  · have accepted := accepts_of_activity_run hr he ha
    refine ⟨fun a => absurd (State.slot_congr (exec_buf hx) a), fun hne => ?_⟩
    rcases exec_lost_writers hx hne with ⟨a, rfl | rfl, hu⟩
    · exact .inl ⟨a, .inl (accepted nofun), hu⟩
    · exact .inl ⟨a, .inr (accepted nofun), hu⟩
  · exact ⟨fun _ => absurd rfl, absurd rfl⟩

/-- Settles O45: the port is closed while the engine runs, and each micro-step leaves the host's registers alone. -/
theorem busyTicksKeepTheHostState : Obligations.BusyTicksKeepTheHostState := by
  intro s t hr hbusy h
  refine ⟨by simp [State.cmdReady, hbusy], ?_⟩
  rcases step_cases_outOfReset hr h with ⟨-, -, rfl⟩ | ⟨-, -, -, rfl⟩ | ⟨-, hf, rfl⟩ | ⟨he, -⟩ | ⟨he, -⟩
  · exact ⟨rfl, rfl, fun _ => ⟨nofun, rfl, rfl, rfl, rfl, rfl, fun _ => rfl⟩⟩
  · exact ⟨rfl, rfl, fun _ => ⟨nofun, rfl, rfl, rfl, rfl, rfl, fun _ => rfl⟩⟩
  · obtain ⟨-, -, hpending, hlistening⟩ := convFinish_frame (beginTick s)
    exact ⟨hpending, hlistening, fun hn => by simp [hf] at hn⟩
  · exact absurd he hbusy
  · exact absurd he hbusy

/-- Settles O47: the pair after an accepted command is the one it wrote, with the other bit unchanged. -/
theorem modeCommandsMoveTheNamedState : Obligations.ModeCommandsMoveTheNamedState := by
  intro a s
  refine ⟨fun h => ⟨_, step_of_accepts h (exec_powerDown a _), ?_⟩,
    fun h => ⟨_, step_of_accepts h (exec_powerUp a _), ?_⟩, fun h => ⟨_, step_of_accepts h (exec_enable a _), ?_⟩,
    fun h => ⟨_, step_of_accepts h (exec_disable a _), ?_⟩⟩
  · cases hl : s.listening <;> simp [State.namedState, hl]
  · cases hl : s.listening <;> simp [State.namedState, hl]
  · cases hs : s.sck <;> simp [State.namedState, hs]
  · cases hs : s.sck <;> simp [State.namedState, hs]

/-! ## The invariants of R28 -/

/-- Settles O38: nothing is stored, counted or running after reset. -/
theorem resetMeetsTheInvariants : Obligations.ResetMeetsTheInvariants := by
  refine ⟨⟨?_, ?_, ?_, ?_, ?_, ?_, ?_, ?_, ?_, ?_, ?_, ?_⟩, ⟨?_, ?_⟩⟩ <;> decide

/-- The invariants of the ring buffer (R28 items 1, 3, 7, and the canonical form of R40). -/
structure BufferInv (s : State) : Prop where
  count_le : s.count.toNat ≤ 8
  stored_samples : ∀ x ∈ s.buf, IsSample x.2
  window_written : ∀ k < s.count.toNat, (s.buf.read (s.windowSlot k).toNat).isSome = true
  buf_wf : s.buf.wf

/-- `Inv` without the latch of R28 item 4, which the end of every tick writes anew (R173): what the activity of a tick
starts from and keeps. -/
structure ActivityInv (s : State) : Prop where
  buffer : BufferInv s
  pending_legal : s.pending ≠ 0
  last_legal : s.last ≠ 0
  high_clock : s.eng = .high → s.sck = true
  low_clock : s.eng = .low → s.sck = false
  pulse_le : s.eng ≠ .idle → s.pulse.toNat ≤ 23 + s.pending.toNat
  irq_listening : s.eng ≠ .idle → s.origin = .irq → s.listening = true
  no_stale_response : s.rspValid = false → s.rspOk = false ∧ s.rspData = 0

theorem BufferInv.congr {s t : State} (h : BufferInv s) (hh : t.head = s.head) (hc : t.count = s.count)
    (hb : t.buf = s.buf) : BufferInv t where
  count_le := hc ▸ h.count_le
  stored_samples := hb ▸ h.stored_samples
  window_written := by simpa only [State.windowSlot, hh, hc, hb] using h.window_written
  buf_wf := hb ▸ h.buf_wf

/-- An emptied window claims nothing of the storage that is kept (R19). -/
theorem BufferInv.empty {s t : State} (h : BufferInv s) (hc : t.count = 0) (hb : t.buf = s.buf) : BufferInv t where
  count_le := by simp [hc]
  stored_samples := hb ▸ h.stored_samples
  window_written := by simp [hc]
  buf_wf := hb ▸ h.buf_wf

/-- Giving up the oldest slot, which a pop and a push on a full buffer do (R122, R123). -/
theorem BufferInv.tail {s t : State} (h : BufferInv s) (hn : s.count ≠ 0) (hh : t.head = nextSlot s.head)
    (hc : t.count = s.count - 1) (hb : t.buf = s.buf) : BufferInv t := by
  have hpos : s.count.toNat ≠ 0 := fun e => hn (BitVec.eq_of_toNat_eq e)
  have hle := h.count_le
  have ht : t.count.toNat = s.count.toNat - 1 := by rw [hc, BitVec.toNat_sub]; simp; omega
  have hslot (k : Nat) : t.windowSlot k = s.windowSlot (k + 1) := by
    apply BitVec.eq_of_toNat_eq
    rw [State.windowSlot_toNat, State.windowSlot_toNat, hh, nextSlot_toNat]
    omega
  refine ⟨by omega, hb ▸ h.stored_samples, fun k hk => ?_, hb ▸ h.buf_wf⟩
  rw [hslot, hb]
  exact h.window_written (k + 1) (by omega)

/-- A push of a sample keeps the buffer's invariants, full or not (R121, R122). -/
theorem BufferInv.push {s : State} {v : Word} (h : BufferInv s) (hv : IsSample v) : BufferInv (s.push v) := by
  rcases s.push_cases v with ⟨hc, e⟩ | ⟨hc, e⟩
  · rw [e]
    have hn : (s.count + 1).toNat = s.count.toNat + 1 := by simp; omega
    refine ⟨by simp only [hn]; omega, fun x hx => ?_, fun k hk => ?_, Memory.write_wf v h.buf_wf s.pushSlot.isLt⟩
    · rcases Memory.mem_write hx with rfl | hx
      · exact hv
      · exact h.stored_samples x hx
    · show ((s.buf.write s.pushSlot.toNat v).read (s.windowSlot k).toNat).isSome = true
      rcases Nat.lt_succ_iff_lt_or_eq.1 (hn ▸ hk) with hk | rfl
      · have hne := State.windowSlot_ne_pushSlot hk hc
        rw [Memory.read_write_other _ _ fun e => hne (BitVec.eq_of_toNat_eq e)]
        exact h.window_written k hk
      · exact congrArg Option.isSome (Memory.read_write_same s.buf s.pushSlot.toNat v)
  · have hn : s.count ≠ 0 := by rintro e; simp [e] at hc
    exact h.tail hn (by rw [e]) (by rw [e]) (by rw [e])

/-- The oldest slot of the window holds a sample (R28 items 3 and 7). -/
theorem BufferInv.head_isSample {s : State} (h : BufferInv s) (hn : s.count ≠ 0) : IsSample (s.slot s.head) := by
  have hpos : 0 < s.count.toNat := Nat.pos_of_ne_zero fun e => hn (BitVec.eq_of_toNat_eq e)
  obtain ⟨v, hv⟩ := Option.isSome_iff_exists.1 (h.window_written 0 hpos)
  rw [State.windowSlot_zero] at hv
  simpa [State.slot, hv] using h.stored_samples _ (Memory.mem_of_read hv)

theorem Inv.buffer {s : State} (h : Inv s) : BufferInv s :=
  ⟨h.count_le, h.stored_samples, h.window_written, h.buf_wf⟩

/-- A tick's activity starts from a state without a response (R186). -/
theorem Inv.beginTick {s : State} (h : Inv s) : ActivityInv (beginTick s) where
  buffer := h.buffer.congr rfl rfl rfl
  pending_legal := h.pending_legal
  last_legal := h.last_legal
  high_clock := h.high_clock
  low_clock := h.low_clock
  pulse_le := h.pulse_le
  irq_listening := h.irq_listening
  no_stale_response := fun _ => ⟨rfl, rfl⟩

/-- The latch of R173 is masked by `notify_en`, so the end of a tick restores the whole invariant. -/
theorem ActivityInv.endTick {s u : State} (h : ActivityInv u) : Inv (endTick s u) where
  count_le := h.buffer.count_le
  pending_legal := h.pending_legal
  last_legal := h.last_legal
  stored_samples := h.buffer.stored_samples
  evt_pend_masked := fun he => by
    simp only [endTick_evtPend, evtPendNext, State.notifyEn, Bool.and_eq_true, decide_eq_true_eq] at he
    exact he.1
  high_clock := h.high_clock
  low_clock := h.low_clock
  window_written := h.buffer.window_written
  no_stale_response := h.no_stale_response
  pulse_le := h.pulse_le
  irq_listening := h.irq_listening
  buf_wf := h.buffer.buf_wf

theorem ActivityInv.convHigh {s : State} (h : ActivityInv s) (he : s.eng = .high) : ActivityInv (convHigh s) where
  buffer := h.buffer.congr rfl rfl rfl
  pending_legal := h.pending_legal
  last_legal := h.last_legal
  high_clock := nofun
  low_clock := fun _ => rfl
  pulse_le := fun _ => h.pulse_le (by simp [he])
  irq_listening := fun _ => h.irq_listening (by simp [he])
  no_stale_response := h.no_stale_response

/-- The next pulse of a conversion is at most its last one, `23 + pending` (R94). -/
theorem ActivityInv.nextPulse {s : State} (h : ActivityInv s) (he : s.eng = .low)
    (hp : s.pulse.toNat + 1 < 24 + s.pending.toNat) :
    ActivityInv { s with pulse := s.pulse + 1, sck := true, eng := .high } where
  buffer := h.buffer.congr rfl rfl rfl
  pending_legal := h.pending_legal
  last_legal := h.last_legal
  high_clock := fun _ => rfl
  low_clock := nofun
  pulse_le := fun _ => by simp; omega
  irq_listening := fun _ => h.irq_listening (by simp [he])
  no_stale_response := h.no_stale_response

/-- The engine's invariants say nothing of an idle block (R28 items 6 and 10, R96). -/
theorem ActivityInv.of_idle {s : State} (hb : BufferInv s) (hp : s.pending ≠ 0) (hl : s.last ≠ 0) (he : s.eng = .idle)
    (hr : s.rspValid = false → s.rspOk = false ∧ s.rspData = 0) : ActivityInv s :=
  ⟨hb, hp, hl, by simp [he], by simp [he], absurd he, absurd he, hr⟩

/-- The sample of a finishing conversion has a legal tag (R28 items 2 and 3). -/
theorem State.sample_isSample {s : State} (h : s.last ≠ 0) : IsSample s.sample := assembleSample_isSample s.acc h

theorem ActivityInv.convFinish {s : State} (h : ActivityInv s) : ActivityInv (convFinish s) := by
  obtain ⟨heng, hlast, hpending, -⟩ := convFinish_frame s
  have hreturn : BufferInv s.convReturn := h.buffer.congr rfl rfl rfl
  refine .of_idle ?_ (hpending ▸ h.pending_legal) (hlast ▸ h.pending_legal) heng ?_
  · rcases convFinish_cases s with ⟨-, e⟩ | ⟨-, -, e⟩ | ⟨-, -, e⟩ <;> rw [e]
    · exact hreturn.congr rfl rfl rfl
    · exact hreturn.push (State.sample_isSample h.last_legal)
    · exact hreturn
  · rcases convFinish_cases s with ⟨-, e⟩ | ⟨-, -, e⟩ | ⟨-, -, e⟩ <;> rw [e]
    · exact nofun
    · simpa using h.no_stale_response
    · exact h.no_stale_response

/-- An operation moves the window by emptying it (`INIT`) or by a pop (`READ`). -/
theorem BufferInv.exec {i : Instr} {s t : State} (h : BufferInv s) (hx : exec i s = .next t) : BufferInv t := by
  obtain ⟨-, -, -, frame, -⟩ := operationsWriteOnlyWhatTheAccessTableGives i s t hx
  have hb := exec_buf hx
  cases i with
  | init a => cases hx; exact h.empty rfl rfl
  | read a =>
    rcases exec_read_cases a s with ⟨hn, e⟩ | ⟨-, -, e⟩ | ⟨-, -, e⟩ <;> rw [e] at hx <;> cases hx
    · exact h.tail hn rfl rfl rfl
    · exact h.congr rfl rfl rfl
    · exact h.congr rfl rfl rfl
  | _ => exact h.congr frame.1 frame.2 hb

/-- The selections an operation writes are legal (R28 item 2). -/
theorem exec_selections_legal {i : Instr} {s t : State} (hx : exec i s = .next t) (hp : s.pending ≠ 0)
    (hl : s.last ≠ 0) : t.pending ≠ 0 ∧ t.last ≠ 0 := by
  constructor
  · by_cases he : t.pending = s.pending
    · rwa [he]
    · rcases exec_pending_writers hx he with ⟨-, -, e⟩ | ⟨sel, -, rfl | rfl | rfl, e⟩ <;> rw [e] <;> decide
  · by_cases he : t.last = s.last
    · rwa [he]
    · rcases exec_last_writers hx he with ⟨-, -, -, e⟩ | ⟨-, -, e⟩ <;> rw [e] <;> decide

/-- An operation of an idle block keeps the invariants; the handler runs only while listening (R28 item 4). -/
theorem ActivityInv.exec {i : Instr} {s t : State} (h : ActivityInv s) (he : s.eng = .idle)
    (hh : i = .handler → s.listening = true) (hx : exec i s = .next t) : ActivityInv t := by
  have hbuffer := h.buffer.exec hx
  obtain ⟨hpending, hlast⟩ := exec_selections_legal hx h.pending_legal h.last_legal
  have hresponse : t.rspValid = false → t.rspOk = false ∧ t.rspData = 0 := by
    rcases exec_response_cases hx with e | ⟨hv, ho, hd⟩
    · simp [e]
    · rw [hv, ho, hd]; exact h.no_stale_response
  rcases exec_engine_cases hx with ⟨-, hstart, heng, hpulse, hsck⟩ | ⟨heng, -⟩
  · refine ⟨hbuffer, hpending, hlast, fun _ => hsck, by simp [heng], by simp [hpulse], fun _ horigin => ?_, hresponse⟩
    rcases hstart with ⟨rfl, -⟩ | ⟨-, hfg⟩
    · cases hx; simpa using hh rfl
    · simp [hfg] at horigin
  · exact .of_idle hbuffer hpending hlast (heng.trans he) hresponse

/-- A hardware reset keeps the storage and empties the window (R19, R230). -/
theorem Inv.hardReset {s : State} (h : Inv s) : Inv (hardReset s) :=
  { resetMeetsTheInvariants.1 with stored_samples := h.stored_samples, buf_wf := h.buf_wf, window_written := nofun }

/-- Settles O39: every activity keeps `ActivityInv`, and the end of the tick makes `Inv` of it. -/
theorem stepKeepsTheInvariants : Obligations.StepKeepsTheInvariants := by
  intro s t h hstep
  have hbegin := h.beginTick
  cases hr : s.now.rstN with
  | false =>
    rcases step_cases hstep with ⟨-, rfl⟩ | ⟨hr', -⟩ | ⟨hr', -⟩ | ⟨hr', -⟩ | ⟨hr', -⟩
    · exact h.hardReset
    all_goals simp [hr] at hr'
  | true =>
    rcases step_cases_outOfReset hr hstep with ⟨he, -, rfl⟩ | ⟨he, -, hp, rfl⟩ | ⟨-, -, rfl⟩ |
      ⟨he, -, i, u, ha, hx, rfl⟩ | ⟨-, -, -, rfl⟩
    · exact (hbegin.convHigh he).endTick
    · exact (hbegin.nextPulse he hp).endTick
    · exact hbegin.convFinish.endTick
    · have hlistening : i = .handler → s.listening = true := by
        rintro rfl
        exact (h.evt_pend_masked (evtPend_of_activity_handler he ha)).1
      exact (hbegin.exec he hlistening hx).endTick
    · exact hbegin.endTick

/-! ## The samples the host is given (R28 item 3) -/

theorem IsSample.ne_zero {v : Word} (h : IsSample v) : v ≠ 0 := by
  rintro rfl
  exact h.1 rfl

/-- A `READ` that answers ok took the oldest slot. -/
theorem exec_read_rspData_isSample {a : Arg} {s t : State} (h : ActivityInv s) (hx : exec (.read a) s = .next t)
    (hv : s.rspOk = false) (hok : t.rspOk = true) : IsSample t.rspData := by
  rcases exec_read_cases a s with ⟨hn, e⟩ | ⟨-, -, e⟩ | ⟨-, -, e⟩ <;> rw [e] at hx <;> cases hx
  · exact h.buffer.head_isSample hn
  · simp [hv] at hok
  · simp at hok

/-- A finish that answers ok answers its sample. -/
theorem convFinish_rspData_isSample {s : State} (h : ActivityInv s) (hv : s.rspOk = false)
    (hok : (convFinish s).rspOk = true) : IsSample (convFinish s).rspData := by
  rcases convFinish_cases s with ⟨-, e⟩ | ⟨-, -, e⟩ | ⟨-, -, e⟩ <;> rw [e] at hok ⊢
  · exact State.sample_isSample h.last_legal
  · simp [hv] at hok
  · simp [hv] at hok

/-- Settles O46: a `READ` answers a stored sample, a finish the sample it forms. -/
theorem answeredSamplesAreNeverZero : Obligations.AnsweredSamplesAreNeverZero := by
  intro s t h hr hstep hanswer hok
  suffices hs : IsSample t.rspData from ⟨hs, hs.ne_zero⟩
  rcases hanswer with ⟨a, ha⟩ | hf
  · rcases step_cases_outOfReset hr hstep with ⟨he, -⟩ | ⟨he, -⟩ | ⟨he, -⟩ | ⟨-, -, i, u, ha', hx, rfl⟩ | ⟨-, -, ha', -⟩
    · simp [activity, he] at ha
    · simp [activity, he] at ha
    · simp [activity, he] at ha
    · obtain rfl : i = .read a := by simpa [ha] using ha'.symm
      exact exec_read_rspData_isSample (t := u) h.beginTick hx rfl hok
    · simp [ha] at ha'
  · rcases step_cases_outOfReset hr hstep with ⟨-, hf', -⟩ | ⟨-, hf', -⟩ | ⟨-, -, rfl⟩ | ⟨-, hf', -⟩ | ⟨-, hf', -⟩
    · simp [hf] at hf'
    · simp [hf] at hf'
    · exact convFinish_rspData_isSample h.beginTick rfl hok
    · simp [hf] at hf'
    · simp [hf] at hf'

end Sys2Proof.Machine
end

section
/-! SUPPORT. The proof about the memory (`20_memory.md`): what the operations, the finish of a conversion and the tick
around them do to the contents of the ring buffer, oldest first (R47 to R49, R120). -/

namespace Sys2Proof.Machine

/-! ## The contents in the frame of a tick, and under what moves no window -/

@[simp] theorem beginTick_contents (s : State) : (beginTick s).contents = s.contents :=
  State.contents_congr rfl rfl rfl

@[simp] theorem endTick_contents (s t : State) : (endTick s t).contents = t.contents :=
  State.contents_congr rfl rfl rfl

@[simp] theorem hardReset_contents (s : State) : (hardReset s).contents = [] :=
  State.contents_of_count_zero rfl

@[simp] theorem convHigh_contents (s : State) : (convHigh s).contents = s.contents :=
  State.contents_congr rfl rfl rfl

@[simp] theorem State.respond_contents (s : State) (ok : Bool) (d : Word) : (s.respond ok d).contents = s.contents :=
  State.contents_congr rfl rfl rfl

@[simp] theorem State.convReturn_contents (s : State) : s.convReturn.contents = s.contents :=
  State.contents_congr rfl rfl rfl

/-! ## The operations -/

theorem exec_init_contents {a : Arg} {s t : State} (h : exec (.init a) s = .next t) : t.contents = [] := by
  cases h
  exact State.contents_of_count_zero rfl

/-- `READ` of a buffer that is not empty answers the oldest sample and removes it (R128 case 1). -/
theorem exec_read_contents {a : Arg} {s t : State} (h : exec (.read a) s = .next t) (hc : s.count ≠ 0) :
    s.contents = t.rspData :: t.contents ∧ t.rspOk = true := by
  rcases exec_read_cases a s with ⟨-, e⟩ | ⟨hc', -⟩ | ⟨hc', -⟩
  · have hpos : s.count.toNat ≠ 0 := fun e => hc (BitVec.eq_of_toNat_eq e)
    rw [e] at h
    cases h
    exact ⟨State.contents_tail hpos rfl rfl rfl, rfl⟩
  · exact absurd hc' hc
  · exact absurd hc' hc

/-- Of all operations only `INIT`, and `READ` of a buffer that is not empty, change the contents (R47, R48). -/
theorem exec_contents_frame {i : Instr} {s t : State} (h : exec i s = .next t) (hinit : ∀ a, i ≠ .init a)
    (hread : ∀ a, i = .read a → s.count = 0) : t.contents = s.contents := by
  obtain ⟨-, -, -, frame, -⟩ := operationsWriteOnlyWhatTheAccessTableGives i s t h
  have hb := exec_buf h
  cases i with
  | init a => exact absurd rfl (hinit a)
  | read a =>
    rcases exec_read_cases a s with ⟨hc, -⟩ | ⟨-, -, e⟩ | ⟨-, -, e⟩
    · exact absurd (hread a rfl) hc
    all_goals
      rw [e] at h
      cases h
      exact State.contents_congr rfl rfl rfl
  | _ => exact State.contents_congr frame.1 frame.2 hb

/-! ## The finish of a conversion (R96) -/

theorem convFinish_contents_of_fg {s : State} (ho : s.origin = .fg) : (convFinish s).contents = s.contents := by
  rcases convFinish_cases s with ⟨-, e⟩ | ⟨ho', -⟩ | ⟨ho', -⟩
  · simp [e]
  all_goals simp [ho] at ho'

theorem convFinish_of_irq_listening {s : State} (ho : s.origin = .irq) (hl : s.listening = true) :
    convFinish s = s.convReturn.push s.sample := by
  rcases convFinish_cases s with ⟨ho', -⟩ | ⟨-, -, e⟩ | ⟨-, hl', -⟩
  · simp [ho] at ho'
  · exact e
  · simp [hl] at hl'

/-- A push on a full buffer by reading A of C1 (R122): the oldest entry goes, seven stay, one event is counted. -/
theorem State.push_of_full {s : State} (v : Word) (h : s.count.toNat = 8) :
    s.contents.tail = (s.push v).contents ∧ (s.push v).contents.length = 7 ∧ (s.push v).lost = satInc s.lost := by
  have htail : s.contents.tail = (s.push v).contents := by rw [State.contents_push_full v h.ge, List.tail_cons]
  refine ⟨htail, by rw [← htail]; simp [h], ?_⟩
  rcases s.push_cases v with ⟨hlt, -⟩ | ⟨-, e⟩
  · omega
  · rw [e]

/-! ## The ticks out of reset -/

/-- In a tick whose activity is an operation, the operation answers the state the tick ends with (R181, R190). -/
theorem exec_of_activity_run {s t : State} {i : Instr} (hr : s.now.rstN = true) (ha : activity s = .run i)
    (h : step s = .next t) : ∃ u, exec i (beginTick s) = .next u ∧ t = endTick s u := by
  rcases step_cases_outOfReset hr h with ⟨he, -⟩ | ⟨he, -⟩ | ⟨he, -⟩ | ⟨-, -, j, u, hj, hx, ht⟩ | ⟨-, -, ha', -⟩
  · simp [activity, he] at ha
  · simp [activity, he] at ha
  · simp [activity, he] at ha
  · obtain rfl : i = j := by simpa [ha] using hj
    exact ⟨u, hx, ht⟩
  · simp [ha] at ha'

/-- The finish of a handler conversion is a push of its sample: the conversion runs only while listening (R96). -/
theorem step_of_finishing_irq {s t : State} (hinv : Inv s) (hr : s.now.rstN = true) (hf : s.finishing = true)
    (ho : s.origin = .irq) (h : step s = .next t) : t = endTick s ((beginTick s).convReturn.push s.sample) := by
  obtain ⟨he, -⟩ := s.finishing_iff.1 hf
  have hl : s.listening = true := hinv.irq_listening (by simp [he]) ho
  rcases step_cases_outOfReset hr h with ⟨-, hf', -⟩ | ⟨-, hf', -⟩ | ⟨-, -, ht⟩ | ⟨-, hf', -⟩ | ⟨-, hf', -⟩
  · simp [hf] at hf'
  · simp [hf] at hf'
  · exact ht.trans (congrArg (endTick s) (convFinish_of_irq_listening (s := beginTick s) ho hl))
  · simp [hf] at hf'
  · simp [hf] at hf'

/-- A tick that is no `INIT`, no `READ` of a buffer that is not empty and no finish of a handler conversion keeps the
contents (R48, R49). -/
theorem step_contents_frame {s t : State} (hr : s.now.rstN = true) (h : step s = .next t)
    (hinit : ∀ a, activity s ≠ .run (.init a)) (hread : ∀ a, activity s = .run (.read a) → s.count = 0)
    (hfinish : s.finishing = true → s.origin = .fg) : t.contents = s.contents := by
  rcases step_cases_outOfReset hr h with ⟨-, -, rfl⟩ | ⟨-, -, -, rfl⟩ | ⟨-, hf, rfl⟩ | ⟨-, -, i, u, ha, hx, rfl⟩ |
    ⟨-, -, -, rfl⟩
  · simp
  · exact State.contents_congr rfl rfl rfl
  · have ho : (beginTick s).origin = .fg := hfinish hf
    simp [convFinish_contents_of_fg ho]
  · have hu : u.contents = (beginTick s).contents :=
      exec_contents_frame hx (fun a hi => hinit a (hi ▸ ha)) (fun a hi => hread a (hi ▸ ha))
    simpa using hu
  · simp

/-- Settles O33: an operation's tick by what the operation does to the contents, a finishing one by the push it is, and
every other one by the frame of the contents. -/
theorem everyTickKeepsTheQueueOrder : Obligations.EveryTickKeepsTheQueueOrder := by
  intro s t hinv h
  refine ⟨fun hr => ?reset, fun hr => ⟨fun a ha => ?init, fun a ha hc => ?read, fun hf ho hlen => ?pushFree,
    fun hf ho hlen => ?pushFull, step_contents_frame hr h⟩⟩
  case reset =>
    rcases step_cases h with ⟨-, rfl⟩ | ⟨hr', -⟩ | ⟨hr', -⟩ | ⟨hr', -⟩ | ⟨hr', -⟩
    · simp
    all_goals simp [hr] at hr'
  case init =>
    obtain ⟨u, hx, rfl⟩ := exec_of_activity_run hr ha h
    simpa using exec_init_contents hx
  case read =>
    obtain ⟨u, hx, rfl⟩ := exec_of_activity_run hr ha h
    simpa using exec_read_contents hx hc
  case pushFree =>
    have hroom : (beginTick s).convReturn.count.toNat < 8 := by simpa using hlen
    rw [step_of_finishing_irq hinv hr hf ho h]
    simpa using State.contents_push s.sample hroom
  case pushFull =>
    have hfull : (beginTick s).convReturn.count.toNat = 8 := by simpa using hlen
    rw [step_of_finishing_irq hinv hr hf ho h]
    simpa using State.push_of_full s.sample hfull

end Sys2Proof.Machine
end

section
/-! SUPPORT. The proofs about the encoding (`30_encoding.md`): the decoder and the encoder are inverse to each other (R60,
R61), no command but `SET_GAIN` looks at its operand (R67), and the words of the assembler (R76). -/

namespace Sys2Proof

/-! ## Decoder and encoder -/

/-- The opcode of the instruction is the field `op` of its word: the map of R61, opcode by opcode. -/
theorem decodeWord_opcode (w : CmdWord) : opcode (decodeWord w) = some (w.extractLsb' 8 4) := by
  unfold decodeWord
  generalize w.extractLsb' 8 4 = op
  fin_cases op <;> rfl

/-- A word decodes to the one instruction that has its opcode and its operand. -/
theorem decodeWord_append {i : Instr} {op : BitVec 4} {a : Arg} (ho : opcode i = some op) (ha : i.arg = some a) :
    decodeWord (op ++ a) = i := by
  unfold decodeWord
  rw [opField_append, argField_append]
  cases i with
  | handler => cases ho
  | _ => cases ho; cases ha; rfl

/-- A number with a bit above bit 11 is no command word (R60). -/
theorem decode_of_wide {n : Nat} (h : 2 ^ 12 ≤ n) : decode n = .error (.widerThanCommandWord n) :=
  if_neg (Nat.not_lt.2 h)

theorem encode_of_fields {i : Instr} {op : BitVec 4} {a : Arg} (ho : opcode i = some op) (ha : i.arg = some a) :
    encode i = some (op ++ a) := by
  simp [encode, ho, ha]

theorem encode_decodeWord (w : CmdWord) : encode (decodeWord w) = some w := by
  rw [encode_of_fields (decodeWord_opcode w) (decodeWord_arg w), fields_append]

theorem decodeWord_of_encode {i : Instr} {w : CmdWord} (h : encode i = some w) : decodeWord w = i := by
  unfold encode at h
  split at h
  next ho ha =>
    obtain rfl := Option.some.inj h
    exact decodeWord_append ho ha
  next => cases h

/-- An instruction has a command word exactly if it is well-formed (R64). -/
theorem encode_isSome (i : Instr) : (encode i).isSome = i.presentable := by cases i <;> rfl

theorem wellFormed_decodeWord (w : CmdWord) : WellFormed (decodeWord w) := by
  rw [WellFormed, ← encode_isSome, encode_decodeWord, Option.isSome_some]

/-- Settles O3: a well-formed instruction has a word, and the fields of that word give the instruction back. -/
theorem decodeOfEncodeIsTheInstruction : Obligations.DecodeOfEncodeIsTheInstruction := by
  intro i hi
  obtain ⟨w, hw⟩ := Option.isSome_iff_exists.1 ((encode_isSome i).trans hi)
  exact ⟨w, hw, by rw [decode_toNat, decodeWord_of_encode hw]⟩

/-- Settles O4: a word is made of the opcode and the operand its instruction has, and nothing else. -/
theorem encodeOfDecodeIsTheWord : Obligations.EncodeOfDecodeIsTheWord :=
  ⟨fun w => ⟨decode_toNat w, wellFormed_decodeWord w, encode_decodeWord w⟩, fun _ => decode_of_wide⟩

/-- Settles O2, by evaluation of the decoder at each word. -/
theorem decodesTheOpcodeMap : Obligations.DecodesTheOpcodeMap := by
  unfold Obligations.DecodesTheOpcodeMap
  and_intros <;> rfl

/-! ## The ignored operand -/

/-- Settles O10: apart from `SET_GAIN`, the meaning of an opcode does not mention the operand. -/
theorem ignoredArgumentChangesNothing : Obligations.IgnoredArgumentChangesNothing := by
  intro op a b s hop
  unfold decodeWord
  rw [opField_append, opField_append, argField_append, argField_append]
  generalize hn : op.toNat = n
  split
  case h_8 => exact absurd (BitVec.eq_of_toNat_eq hn) hop
  all_goals rfl

/-! ## The assembler -/

/-- A line whose operand is allowed and has a value below 256 assembles to `{op, arg}` (R76). -/
theorem assemble_eq_ok {m : String} {x : AsmArg} {op n : Nat} (hm : mnemonicOpcodes.lookup m = some op)
    (hx : op = 7 ∨ x = .absent) (hn : asmArgValue x = .ok n) (hlt : n < 256) :
    assemble m x = .ok (BitVec.ofNat 12 (op * 256 + n)) := by
  have hallowed : ¬ (op ≠ 7 ∧ x ≠ .absent) := by tauto
  have hfields : op <<< 8 ||| n = op * 256 + n := by
    rw [← Nat.shiftLeft_add_eq_or_of_lt hlt, Nat.shiftLeft_eq]
  simp only [assemble, hm, if_neg hallowed, hn, hfields]

theorem assemble_absent {m : String} {op : Nat} (hm : mnemonicOpcodes.lookup m = some op) :
    assemble m .absent = .ok (BitVec.ofNat 12 (op * 256)) := by
  simpa using assemble_eq_ok (n := 0) hm (.inr rfl) rfl (by decide)

theorem assemble_setGain_number {g : Nat} (hg : g < 256) :
    assemble "SET_GAIN" (.number g) = .ok (BitVec.ofNat 12 (0x700 + g)) :=
  assemble_eq_ok (by decide) (.inl rfl) (if_pos hg) hg

theorem assemble_setGain_name {name : String} {g : Nat} (hname : gainNames.lookup name = some g) (hg : g < 256) :
    assemble "SET_GAIN" (.name name) = .ok (BitVec.ofNat 12 (0x700 + g)) :=
  assemble_eq_ok (by decide) (.inl rfl) (by simp [asmArgValue, hname]) hg

/-- Settles O5: each line is one of the three forms, its mnemonic or gain name looked up in the table. -/
theorem assemblesTheListedWords : Obligations.AssemblesTheListedWords :=
  ⟨assemble_absent (op := 0) (by decide), assemble_absent (op := 1) (by decide),
   assemble_absent (op := 2) (by decide), assemble_absent (op := 3) (by decide),
   assemble_absent (op := 4) (by decide), assemble_absent (op := 5) (by decide),
   assemble_absent (op := 6) (by decide), assemble_absent (op := 8) (by decide),
   assemble_absent (op := 9) (by decide), fun _ => assemble_setGain_number,
   assemble_setGain_name (g := 1) (by decide) (by decide), assemble_setGain_name (g := 2) (by decide) (by decide),
   assemble_setGain_name (g := 3) (by decide) (by decide)⟩

end Sys2Proof
end

section
/-! SUPPORT. The proofs about the protocol engine (`40_protocol_engine.md`): its ticks one by one (R93 to R96, R99), the
bound of the shift register (R101), and the conversion as a run of ticks (R97, R98). -/

namespace Sys2Proof.Machine

/-! ## The frame of a tick that begins or ends in a conversion (R173) -/

/-- In a tick that begins with the engine running the mask is closed: no transition of the line is recorded. -/
theorem evtPendNext_from_busy {s : State} (t : State) (h : s.eng ≠ .idle) :
    evtPendNext s t = (t.notifyEn && t.evtPend) := by
  simp [evtPendNext, State.notifyEn, h]

/-- A tick that ends with the engine running leaves no event. -/
theorem endTick_to_busy (s : State) {t : State} (h : t.eng ≠ .idle) : endTick s t =
    { t with doutPrev := s.now.dout, evtPend := false, inputs := s.inputs.tail, tick := s.tick + 1 } := by
  rw [endTick, evtPendNext_busy s h]

/-- A tick that ends a conversion lets an older event stand, if the block is listening. -/
theorem endTick_busy_to_idle {s t : State} (hs : s.eng ≠ .idle) (ht : t.eng = .idle) : endTick s t =
    { t with
      doutPrev := s.now.dout, evtPend := t.listening && t.evtPend, inputs := s.inputs.tail, tick := s.tick + 1 } := by
  rw [endTick, evtPendNext_from_busy t hs]
  simp [State.notifyEn, ht]

/-! ## The dispatch of the handler (R99) -/

theorem State.handlerEntry_of_low {s : State} (hd : s.now.dout = false) :
    s.handlerEntry = State.convStart { s with evtPend := false } .irq := by
  rcases s.handlerEntry_cases with ⟨hd', -⟩ | ⟨-, e⟩
  · simp [hd] at hd'
  · exact e

theorem State.handlerEntry_of_high {s : State} (hd : s.now.dout = true) :
    s.handlerEntry = { s with evtPend := false } := by
  rcases s.handlerEntry_cases with ⟨-, e⟩ | ⟨hd', -⟩
  · exact e
  · simp [hd] at hd'

/-- The state after a tick that dispatches the handler on a low line: the first of its conversion (R92, R99). -/
def State.handlerStart (s : State) : State :=
  endTick s (State.convStart { beginTick s with evtPend := false } .irq)

theorem State.handlerStart_atConversionStart (s : State) : AtConversionStart s.handlerStart := ⟨rfl, rfl, rfl, rfl⟩

theorem State.handlerStart_inputAt (s : State) (j : Nat) : s.handlerStart.inputAt j = s.inputAt (1 + j) := by
  rw [State.handlerStart, endTick_inputAt, Nat.add_comm]

theorem step_of_dispatch_low {s : State} (hr : s.now.rstN = true) (he : s.eng = .idle) (hp : s.evtPend = true)
    (hd : s.now.dout = false) : step s = .next s.handlerStart := by
  rw [step_of_dispatch hr he hp, State.handlerEntry_of_low (s := beginTick s) hd]
  rfl

/-- Settles O22: the two ways of the handler's entry, in the frame of a tick with and without a start. -/
theorem handlerStartsAConversionOnALowLine : Obligations.HandlerStartsAConversionOnALowLine := by
  intro s
  refine ⟨fun hd => ⟨congrArg _ (State.handlerEntry_of_low hd), fun hr he hp => ?started⟩,
    fun hd => ⟨congrArg _ (State.handlerEntry_of_high hd), fun hr he hp => ?nothing⟩⟩
  case started =>
    rw [step_of_dispatch_low hr he hp hd, State.handlerStart, endTick_to_busy s (by simp), hd]
    rfl
  case nothing =>
    have latch : evtPendNext s { beginTick s with evtPend := false } = (s.listening && s.edge) := by
      simp [evtPendNext, State.notifyEn, he]
    rw [step_of_dispatch hr he hp, State.handlerEntry_of_high (s := beginTick s) hd, endTick, latch, hd]
    rfl

/-! ## The high tick (R93) and the shift register (R101) -/

theorem convHigh_acc_of_data {s : State} (h : s.pulse.toNat < 24) : (convHigh s).acc = shiftIn s.acc s.now.dout :=
  if_pos h

theorem convHigh_acc_of_extra {s : State} (h : 24 ≤ s.pulse.toNat) : (convHigh s).acc = s.acc :=
  if_neg (Nat.not_lt.2 h)

/-- Before data pulse `p` is sampled `acc` holds `p < 24` bits, so its top bit is free. -/
theorem AccInv.top_bit {s : State} (h : AccInv s) (he : s.eng = .high) (hp : s.pulse.toNat < 24) :
    s.acc.getLsbD 23 = false := by
  have hlt : s.acc.toNat < 2 ^ 23 := (h.high_bits he hp).trans_le (Nat.pow_le_pow_right (by decide) (by omega))
  exact Nat.testBit_lt_two_pow hlt

/-- Settles O23: a data pulse by the bits of `shiftIn`, an extra pulse by the frame of `acc`. -/
theorem highTickSamplesTheLine : Obligations.HighTickSamplesTheLine := by
  intro s hr he
  refine ⟨_, step_of_high hr he, fun hp => ?data, convHigh_acc_of_extra (s := beginTick s), ?frame⟩
  case data =>
    rw [endTick_acc, convHigh_acc_of_data (s := beginTick s) hp]
    exact ⟨shiftIn_getLsbD_zero _ _, fun j => shiftIn_getLsbD_succ _ _, fun h => h.top_bit he hp⟩
  case frame =>
    rw [endTick_to_busy s (by simp [convHigh])]
    rfl

/-- The bound of the shift register says nothing of an idle block. -/
theorem AccInv.of_idle {s : State} (h : s.eng = .idle) : AccInv s := ⟨by simp [h], by simp [h]⟩

theorem AccInv.convStart (s : State) (o : Origin) : AccInv (s.convStart o) := ⟨by simp, by simp⟩

/-- A sampled data bit is one bit more. -/
theorem AccInv.convHigh {s : State} (h : AccInv s) (he : s.eng = .high) : AccInv (convHigh s) where
  high_bits := nofun
  low_bits := fun _ (hp : s.pulse.toNat < 24) => by
    have hacc := h.high_bits he hp
    have hbit : s.now.dout.toNat < 2 := Bool.toNat_lt _
    have hmod := Nat.mod_le (s.acc.toNat * 2) (2 ^ 24)
    show (Machine.convHigh s).acc.toNat < 2 ^ (s.pulse.toNat + 1)
    rw [convHigh_acc_of_data hp, shiftIn_toNat, Nat.pow_succ]
    omega

/-- The low tick of a data pulse raises the next pulse with the bits sampled so far. -/
theorem AccInv.nextPulse {s : State} (h : AccInv s) (he : s.eng = .low)
    (hp : s.pulse.toNat + 1 < 24 + s.pending.toNat) :
    AccInv { s with pulse := s.pulse + 1, sck := true, eng := .high } where
  high_bits := fun _ hlt => by
    have hnext : (s.pulse + 1).toNat = s.pulse.toNat + 1 := by simp; omega
    simp only [hnext] at hlt ⊢
    exact h.low_bits he (by omega)
  low_bits := nofun

/-- An operation of an idle block starts a conversion with a cleared `acc`, or none (R92). -/
theorem AccInv.exec {i : Instr} {s t : State} (he : s.eng = .idle) (hx : exec i s = .next t) : AccInv t := by
  cases i with
  | read a =>
    rcases exec_read_cases a s with ⟨-, e⟩ | ⟨-, -, e⟩ | ⟨-, -, e⟩ <;> rw [e] at hx <;> cases hx
    · exact .of_idle he
    · exact .convStart s .fg
    · exact .of_idle he
  | handler =>
    cases hx
    rcases s.handlerEntry_cases with ⟨-, e⟩ | ⟨-, e⟩ <;> rw [e]
    · exact .of_idle he
    · exact .convStart _ .irq
  | _ => cases hx; exact .of_idle (by simpa using he)

/-- The bound is about the registers of the engine, which the frame of a tick does not touch. -/
theorem AccInv.endTick {s t : State} (h : AccInv t) : AccInv (endTick s t) := ⟨h.high_bits, h.low_bits⟩

/-- Settles O40: the bound is kept by every activity, and gives the free top bit. -/
theorem noDataBitIsShiftedOut : Obligations.NoDataBitIsShiftedOut := by
  refine ⟨fun s t h hstep => ?_, fun s h he hp => h.top_bit he hp⟩
  have hbegin : AccInv (beginTick s) := ⟨h.high_bits, h.low_bits⟩
  cases hr : s.now.rstN with
  | false =>
    rcases step_cases hstep with ⟨-, rfl⟩ | ⟨hr', -⟩ | ⟨hr', -⟩ | ⟨hr', -⟩ | ⟨hr', -⟩
    · exact .of_idle rfl
    all_goals simp [hr] at hr'
  | true =>
    rcases step_cases_outOfReset hr hstep with ⟨he, -, rfl⟩ | ⟨he, -, hp, rfl⟩ | ⟨-, -, rfl⟩ |
      ⟨he, -, i, u, -, hx, rfl⟩ | ⟨-, -, -, rfl⟩
    · exact (hbegin.convHigh he).endTick
    · exact (hbegin.nextPulse he hp).endTick
    · exact .of_idle (convFinish_frame (beginTick s)).1
    · exact (AccInv.exec (s := beginTick s) he hx).endTick
    · exact hbegin.endTick

/-! ## The low tick (R94) -/

/-- The registers of the engine that a finish leaves as they are, and the latch (R96). -/
theorem convFinish_engine_frame (s : State) :
    (convFinish s).acc = s.acc ∧ (convFinish s).sck = s.sck ∧ (convFinish s).pulse = s.pulse ∧
    (convFinish s).evtPend = s.evtPend := by
  rcases convFinish_cases s with ⟨-, e⟩ | ⟨-, -, e⟩ | ⟨-, -, e⟩ <;> simp [e]

theorem step_of_nextPulse {s : State} (hr : s.now.rstN = true) (he : s.eng = .low)
    (hp : s.pulse.toNat + 1 < 24 + s.pending.toNat) :
    step s = .next (endTick s { beginTick s with pulse := s.pulse + 1, sck := true, eng := .high }) := by
  rcases convLow_cases (beginTick s) with ⟨-, e⟩ | ⟨hp', -⟩
  · rw [step_of_low hr he, e]
    rfl
  · exact absurd hp (Nat.not_lt.2 hp')

theorem step_of_finishing {s : State} (hr : s.now.rstN = true) (hf : s.finishing = true) :
    step s = .next (endTick s (convFinish (beginTick s))) := by
  obtain ⟨he, hp⟩ := s.finishing_iff.1 hf
  rcases convLow_cases (beginTick s) with ⟨hp', -⟩ | ⟨-, e⟩
  · exact absurd hp' (Nat.not_lt.2 hp)
  · rw [step_of_low hr he, e]

/-- Settles O24: the two branches of the low tick, the finish by its frame. -/
theorem lowTickRaisesTheNextPulse : Obligations.LowTickRaisesTheNextPulse := by
  intro s hr he
  refine ⟨fun hp => ?_, fun hp => ?_⟩
  · rw [step_of_nextPulse hr he hp, endTick_to_busy s (by simp)]
    rfl
  · have hf : s.finishing = true := s.finishing_iff.2 ⟨he, hp⟩
    obtain ⟨-, hsck, hpulse, -⟩ := convFinish_engine_frame (beginTick s)
    exact ⟨hf, _, step_of_finishing hr hf, (convFinish_frame (beginTick s)).1, hsck, hpulse⟩

/-! ## The line outside the data pulses (R97 item 2) -/

/-- An extra pulse discards the line. -/
theorem convHigh_inputs_of_extra {s : State} (h : 24 ≤ s.pulse.toNat) (x : List TickInput) :
    convHigh { s with inputs := x } = { convHigh s with inputs := x } := by
  simp [convHigh, Nat.not_lt.2 h]

/-- At the end of a tick that began with the engine running, the line reaches `dout_prev` only. -/
theorem endTick_dout_from_busy {s : State} {i : TickInput} {rest : List TickInput} (hs : s.inputs = i :: rest)
    (he : s.eng ≠ .idle) (d : Bool) (t : State) :
    endTick { s with inputs := { i with dout := d } :: rest } { t with inputs := { i with dout := d } :: rest } =
      { endTick s t with doutPrev := d } := by
  have hbusy : State.eng { s with inputs := { i with dout := d } :: rest } ≠ .idle := he
  simp only [endTick, evtPendNext_from_busy _ he, evtPendNext_from_busy _ hbusy, hs]
  rfl

/-- Settles O37: the activity of such a tick looks at no input, and the end of the tick records the line. -/
theorem lineIsIgnoredOutsideDataPulses : Obligations.LineIsIgnoredOutsideDataPulses := by
  intro s i rest d hs hr hwhere
  have hnow : s.now.rstN = true := by rwa [State.now_of_cons hs]
  have hnow' : (State.now { s with inputs := { i with dout := d } :: rest }).rstN = true := hr
  rcases hwhere with he | ⟨he, hp⟩
  · have hactivity := convLow_inputs (beginTick s) ({ i with dout := d } :: rest)
    refine ⟨_, step_of_low hnow he, (step_of_low hnow' he).trans (congrArg Host.Outcome.next ?_)⟩
    exact (congrArg (endTick _) hactivity).trans (endTick_dout_from_busy hs (by simp [he]) d _)
  · have hactivity := convHigh_inputs_of_extra (s := beginTick s) hp ({ i with dout := d } :: rest)
    refine ⟨_, step_of_high hnow he, (step_of_high hnow' he).trans (congrArg Host.Outcome.next ?_)⟩
    exact (congrArg (endTick _) hactivity).trans (endTick_dout_from_busy hs (by simp [he]) d _)

/-! ## The sample (R95) -/

/-- Settles O25: the fields by the layout of the sample, the `OR` form because the two parts do not overlap. -/
theorem sampleIsTagZerosReading : Obligations.SampleIsTagZerosReading := by
  intro s
  refine ⟨assembleSample_tag s.last s.acc, assembleSample_zeros s.last s.acc, assembleSample_reading s.last s.acc, ?_⟩
  have htag : ((s.last.zeroExtend 32 : Word) <<< 30).toNat = s.last.toNat <<< 30 := by
    have hlt := s.last.isLt
    rw [BitVec.toNat_shiftLeft, BitVec.toNat_setWidth_of_le (by decide), Nat.mod_eq_of_lt]
    rw [Nat.shiftLeft_eq]
    omega
  have hreading : (s.acc.zeroExtend 32 : Word).toNat = s.acc.toNat := BitVec.toNat_setWidth_of_le (by decide)
  have hdisjoint : s.acc.toNat < 2 ^ 30 := s.acc.isLt.trans (by decide)
  apply BitVec.eq_of_toNat_eq
  rw [State.sample, assembleSample_toNat, BitVec.toNat_or, htag, hreading, ← Nat.shiftLeft_add_eq_or_of_lt hdisjoint,
    Nat.shiftLeft_eq]

/-! ## The push of a sample (R121, R122) -/

/-- A push on a buffer that is not full stores in the next slot and in no other. -/
theorem State.push_of_room {s : State} (v : Word) (h : s.count.toNat < 8) :
    (s.push v).slot s.pushSlot = v ∧ (∀ a, a ≠ s.pushSlot → (s.push v).slot a = s.slot a) ∧
    (s.push v).head = s.head ∧ (s.push v).count = s.count + 1 ∧ (s.push v).lost = s.lost := by
  rcases s.push_cases v with ⟨-, e⟩ | ⟨h', -⟩
  · rw [e]
    exact ⟨s.slot_write_same _ v _, fun a => s.slot_write_other v _, rfl, rfl, rfl⟩
  · omega

/-- A push on a full buffer stores nothing, frees the oldest slot and counts a loss (reading A of C1). -/
theorem State.push_without_room {s : State} (v : Word) (h : 8 ≤ s.count.toNat) :
    (∀ a, (s.push v).slot a = s.slot a) ∧
    (s.push v).head = s.windowSlot 1 ∧ (s.push v).count = s.count - 1 ∧ (s.push v).lost = satInc s.lost := by
  rcases s.push_cases v with ⟨h', -⟩ | ⟨-, e⟩
  · omega
  · rw [e]
    exact ⟨fun _ => rfl, rfl, rfl, rfl⟩

/-- What a push does to the buffer depends on the buffer alone. -/
theorem State.push_congr {s t : State} (v : Word) (hh : t.head = s.head) (hc : t.count = s.count)
    (hl : t.lost = s.lost) (hb : t.buf = s.buf) :
    (t.push v).head = (s.push v).head ∧ (t.push v).count = (s.push v).count ∧
    (t.push v).lost = (s.push v).lost ∧ (t.push v).buf = (s.push v).buf := by
  rcases s.push_cases v with ⟨h, e⟩ | ⟨h, e⟩ <;> rcases t.push_cases v with ⟨h', e'⟩ | ⟨h', e'⟩
  · simp [e, e', hh, hc, hl, hb, State.pushSlot, State.windowSlot]
  · rw [hc] at h'; omega
  · rw [hc] at h'; omega
  · simp [e, e', hh, hc, hl, hb]

/-- A push writes the buffer, its window and the lost counter. -/
theorem State.push_frame (s : State) (v : Word) : s.push v =
    { s with buf := (s.push v).buf, head := (s.push v).head, count := (s.push v).count, lost := (s.push v).lost } := by
  rcases s.push_cases v with ⟨-, e⟩ | ⟨-, e⟩ <;> rw [e]

/-! ## The finish of a conversion (R96) -/

theorem convFinish_of_fg {s : State} (ho : s.origin = .fg) : convFinish s = s.convReturn.respond true s.sample := by
  rcases convFinish_cases s with ⟨-, e⟩ | ⟨ho', -⟩ | ⟨ho', -⟩
  · exact e
  all_goals simp [ho] at ho'

theorem convFinish_of_irq_not_listening {s : State} (ho : s.origin = .irq) (hl : s.listening = false) :
    convFinish s = s.convReturn := by
  rcases convFinish_cases s with ⟨ho', -⟩ | ⟨-, hl', -⟩ | ⟨-, -, e⟩
  · simp [ho] at ho'
  · simp [hl] at hl'
  · exact e

/-- Settles O26: the finish by its origin and the mask, in the frame of a tick that ends a conversion. -/
theorem finishCommitsAndDelivers : Obligations.FinishCommitsAndDelivers := by
  intro s hr hf
  obtain ⟨he, -⟩ := s.finishing_iff.1 hf
  obtain ⟨heng, -⟩ := convFinish_frame (beginTick s)
  obtain ⟨-, -, -, hevt⟩ := convFinish_engine_frame (beginTick s)
  have hend := endTick_busy_to_idle (s := s) (by simp [he]) heng
  refine ⟨_, step_of_finishing hr hf, fun hp => ?port, fun ho => ?answered, fun ho hl => ?pushed,
    fun ho hl => ?discarded⟩
  case port =>
    simp [hend, State.cmdReady, heng, hevt, hp]
  case answered =>
    rw [hend, convFinish_of_fg (s := beginTick s) ho]
    rfl
  case pushed =>
    have hpush := convFinish_of_irq_listening (s := beginTick s) ho hl
    rw [hpush] at hend ⊢
    refine ⟨?_, State.push_of_room (s := (beginTick s).convReturn) s.sample,
      State.push_without_room (s := (beginTick s).convReturn) s.sample⟩
    rw [hend, State.push_frame]
    simp [hl]
  case discarded =>
    rw [hend, convFinish_of_irq_not_listening (s := beginTick s) ho hl]
    simp [hl]

/-! ## The ticks of a conversion (R97, R98) -/

/-- The lowest `m` bits of `acc` are the levels `line 0 .. line (m - 1)`, the first the most significant (R93). -/
def SampledBits (acc : Reading) (line : Nat → Bool) (m : Nat) : Prop :=
  ∀ q < m, acc.getLsbD (m - 1 - q) = line q

theorem SampledBits.shiftIn {acc : Reading} {line : Nat → Bool} {m : Nat} (h : SampledBits acc line m) (hm : m < 24) :
    SampledBits (shiftIn acc (line m)) line (m + 1) := by
  intro q hq
  rcases Nat.lt_succ_iff_lt_or_eq.1 hq with hlt | rfl
  · rw [show m + 1 - 1 - q = (m - 1 - q) + 1 by omega, shiftIn_getLsbD_succ _ _ (by omega)]
    exact h q hlt
  · rw [show q + 1 - 1 - q = 0 by omega, shiftIn_getLsbD_zero]

/-- The state `u` a conversion has reached `k` ticks after its first tick, in `s`: pulse `k / 2`, high in the even ticks
and low in the odd ones, with `(k + 1) / 2` of the levels sampled, at most 24; no event and no response
stand once it has begun. -/
structure MidConversion (s : State) (k : Nat) (u : State) : Prop where
  high : k % 2 = 0 → u.eng = .high ∧ u.sck = true
  low : k % 2 = 1 → u.eng = .low ∧ u.sck = false
  pulse : u.pulse.toNat = k / 2
  bits : SampledBits u.acc (fun p => (s.inputAt (2 * p)).dout) (min ((k + 1) / 2) 24)
  evtPend : 0 < k → u.evtPend = false
  rspValid : 0 < k → u.rspValid = false
  inputAt : ∀ j, u.inputAt j = s.inputAt (k + j)
  pending : u.pending = s.pending
  last : u.last = s.last
  origin : u.origin = s.origin
  listening : u.listening = s.listening
  head : u.head = s.head
  count : u.count = s.count
  lost : u.lost = s.lost
  buf : u.buf = s.buf

theorem MidConversion.start {s : State} (h : AtConversionStart s) : MidConversion s 0 s := by
  obtain ⟨heng, hpulse, -, hsck⟩ := h
  constructor
  case high => exact fun _ => ⟨heng, hsck⟩
  case pulse => simp [hpulse]
  case inputAt => exact fun j => by rw [Nat.zero_add]
  case low | bits | evtPend | rspValid => exact nofun
  all_goals rfl

theorem MidConversion.now {s u : State} {k : Nat} (h : MidConversion s k u) : u.now = s.inputAt k := h.inputAt 0

theorem MidConversion.busy {s u : State} {k : Nat} (h : MidConversion s k u) : u.eng ≠ .idle := by
  rcases Nat.mod_two_eq_zero_or_one k with hk | hk
  · simp [h.high hk]
  · simp [h.low hk]

/-- The high tick of a data pulse samples one more level, that of an extra pulse none (R93). -/
theorem MidConversion.bits_convHigh {s u : State} {k : Nat} (h : MidConversion s k u) (hk : k % 2 = 0) :
    SampledBits (convHigh (beginTick u)).acc (fun p => (s.inputAt (2 * p)).dout) (min ((k + 1 + 1) / 2) 24) := by
  have hpulse : (beginTick u).pulse.toNat = k / 2 := h.pulse
  have hsampled := h.bits
  by_cases hp : k / 2 < 24
  · have hline : u.now.dout = (s.inputAt (2 * (k / 2))).dout := by rw [h.now, Nat.mul_div_cancel' (by omega)]
    rw [show min ((k + 1) / 2) 24 = k / 2 by omega] at hsampled
    rw [show min ((k + 1 + 1) / 2) 24 = k / 2 + 1 by omega, convHigh_acc_of_data (by omega), beginTick_now, hline]
    exact hsampled.shiftIn hp
  · rw [show min ((k + 1) / 2) 24 = 24 by omega] at hsampled
    rw [show min ((k + 1 + 1) / 2) 24 = 24 by omega, convHigh_acc_of_extra (by omega)]
    exact hsampled

/-- The tick after the high tick of a pulse is its low tick. -/
theorem MidConversion.afterHigh {s u : State} {k : Nat} (h : MidConversion s k u) (hk : k % 2 = 0) :
    MidConversion s (k + 1) (endTick u (convHigh (beginTick u))) :=
  { h with
    high := fun hk' => by omega
    low := fun _ => ⟨rfl, rfl⟩
    pulse := h.pulse.trans (by omega)
    bits := h.bits_convHigh hk
    evtPend := fun _ => evtPendNext_busy u nofun
    rspValid := fun _ => rfl
    inputAt := fun j => by rw [endTick_inputAt, h.inputAt]; congr 1; omega }

/-- The tick after the low tick of a pulse that is not the last is the high tick of the next. -/
theorem MidConversion.afterLow {s u : State} {k : Nat} (h : MidConversion s k u) (hk : k % 2 = 1)
    (hlt : k + 1 < 2 * (24 + s.pending.toNat)) :
    MidConversion s (k + 1) (endTick u { beginTick u with pulse := u.pulse + 1, sck := true, eng := .high }) :=
  { h with
    high := fun _ => ⟨rfl, rfl⟩
    low := fun hk' => by omega
    pulse := by
      have hpulse := h.pulse
      have hpending := s.pending.isLt
      simp
      omega
    bits := by
      rw [show (k + 1 + 1) / 2 = (k + 1) / 2 by omega]
      exact h.bits
    evtPend := fun _ => evtPendNext_busy u nofun
    rspValid := fun _ => rfl
    inputAt := fun j => by rw [endTick_inputAt, h.inputAt]; congr 1; omega }

/-- Every tick of a conversion but the last leads to the next one. -/
theorem MidConversion.succ {s u : State} {k : Nat} (h : MidConversion s k u) (hr : (s.inputAt k).rstN = true)
    (hlt : k + 1 < 2 * (24 + s.pending.toNat)) : ∃ v, step u = .next v ∧ MidConversion s (k + 1) v := by
  rw [← h.now] at hr
  have hpulse := h.pulse
  rcases Nat.mod_two_eq_zero_or_one k with hk | hk
  · exact ⟨_, step_of_high hr (h.high hk).1, h.afterHigh hk⟩
  · exact ⟨_, step_of_nextPulse hr (h.low hk).1 (by rw [h.pending]; omega), h.afterLow hk hlt⟩

/-- The last tick of a conversion finishes it (R94). -/
theorem MidConversion.finishing {s u : State} {k : Nat} (h : MidConversion s k u)
    (hlast : k + 1 = 2 * (24 + s.pending.toNat)) : u.finishing = true := by
  have hpulse := h.pulse
  exact u.finishing_iff.2 ⟨(h.low (by omega)).1, by rw [h.pending]; omega⟩

/-- One more tick at the end of a run. -/
theorem ticks_snoc {s t u : State} {k : Nat} (hrun : ticks k s = .next t) (hstep : step t = .next u) :
    ticks (k + 1) s = .next u :=
  (ticks_add 1 hrun).trans (ticks_succ hstep 0)

/-- A conversion runs through all its ticks. -/
theorem ticks_midConversion {s : State} (hs : AtConversionStart s) (hr : OutOfReset (2 * (24 + s.pending.toNat)) s)
    {k : Nat} (hk : k < 2 * (24 + s.pending.toNat)) : ∃ u, ticks k s = .next u ∧ MidConversion s k u := by
  induction k with
  | zero => exact ⟨s, rfl, .start hs⟩
  | succ k ih =>
    obtain ⟨u, hrun, h⟩ := ih (by omega)
    obtain ⟨v, hstep, hv⟩ := h.succ (hr k (by omega)) hk
    exact ⟨v, ticks_snoc hrun hstep, hv⟩

/-- Settles O50: both ticks of a pulse are ticks of the conversion. -/
theorem conversionDrivesItsPulses : Obligations.ConversionDrivesItsPulses := by
  intro s hs hr p hp
  refine ⟨?high, ?low⟩
  case high =>
    obtain ⟨u, hrun, h⟩ := ticks_midConversion hs hr (k := 2 * p) (by omega)
    obtain ⟨heng, hsck⟩ := h.high (by omega)
    exact ⟨u, hrun, heng, h.pulse.trans (by omega), hsck, by simp [State.cmdReady, heng],
      by simp [State.notifyEn, heng]⟩
  case low =>
    obtain ⟨u, hrun, h⟩ := ticks_midConversion hs hr (k := 2 * p + 1) (by omega)
    obtain ⟨heng, hsck⟩ := h.low (by omega)
    exact ⟨u, hrun, heng, h.pulse.trans (by omega), hsck, by simp [State.cmdReady, heng], h.evtPend (by omega)⟩

/-- A conversion ends with its finish, taken from the low tick of pulse `23 + pending`. -/
theorem ticks_conversion {s : State} (hs : AtConversionStart s) (hr : OutOfReset (2 * (24 + s.pending.toNat)) s) :
    ∃ u, ticks (2 * (24 + s.pending.toNat)) s = .next (endTick u (convFinish (beginTick u))) ∧
      MidConversion s (2 * (23 + s.pending.toNat) + 1) u := by
  obtain ⟨u, hrun, h⟩ := ticks_midConversion hs hr (k := 2 * (23 + s.pending.toNat) + 1) (by omega)
  have hreset : u.now.rstN = true := by rw [h.now]; exact hr _ (by omega)
  have hfinish := ticks_snoc hrun (step_of_finishing hreset (h.finishing (by omega)))
  rw [show 2 * (24 + s.pending.toNat) = 2 * (23 + s.pending.toNat) + 1 + 1 by omega]
  exact ⟨u, hfinish, h⟩

/-- Settles O49: the finish by its origin and the mask, from the low tick of the last pulse. -/
theorem conversionIsOneEvent : Obligations.ConversionIsOneEvent := by
  intro s hs hr
  obtain ⟨u, hrun, h⟩ := ticks_conversion hs hr
  obtain ⟨heng, hlast, hpending, hlistening⟩ := convFinish_frame (beginTick u)
  obtain ⟨hacc, hsck, -, hevt⟩ := convFinish_engine_frame (beginTick u)
  have hsample : (beginTick u).sample = assembleSample s.last u.acc := by rw [State.sample, beginTick_last, h.last]; rfl
  refine ⟨_, hrun, heng, hsck.trans (h.low (by omega)).2, hlast.trans h.pending, ?latch, fun p hp => ?bit,
    hpending.trans h.pending, hlistening.trans h.listening, fun ho => ?answered, fun ho hl => ?pushed,
    fun ho hl => ?discarded⟩
  case latch =>
    have hnone : u.evtPend = false := h.evtPend (by omega)
    simp [evtPendNext_from_busy _ h.busy, hevt, hnone]
  case bit =>
    have hbit := h.bits p (by omega)
    rw [show min ((2 * (23 + s.pending.toNat) + 1 + 1) / 2) 24 - 1 - p = 23 - p by omega] at hbit
    rw [endTick_acc, hacc]
    exact hbit
  case answered =>
    have hfinish := convFinish_of_fg (s := beginTick u) (h.origin.trans ho)
    rw [hfinish, hsample]
    exact ⟨rfl, rfl, rfl, h.head, h.count, h.lost, h.buf⟩
  case pushed =>
    have hfinish := convFinish_of_irq_listening (s := beginTick u) (h.origin.trans ho) (h.listening.trans hl)
    rw [endTick_acc, hacc, hfinish, hsample]
    exact ⟨by simp, State.push_congr (s := s) (t := (beginTick u).convReturn) _ h.head h.count h.lost h.buf⟩
  case discarded =>
    rw [convFinish_of_irq_not_listening (s := beginTick u) (h.origin.trans ho) (h.listening.trans hl)]
    exact ⟨rfl, h.head, h.count, h.lost, h.buf⟩

/-! ## From the dispatch of the handler to the stored sample (R174) -/

/-- Settles O53: the dispatching tick, then the conversion as one event, then what its push does to the slots. -/
theorem handlerConversionDeliversTheSample : Obligations.HandlerConversionDeliversTheSample := by
  intro s hr he hp hl hd hreset
  have hstart := s.handlerStart_atConversionStart
  have hrest : OutOfReset (2 * (24 + s.pending.toNat)) s.handlerStart := fun j hj => by
    rw [s.handlerStart_inputAt]
    exact hreset _ (by omega)
  obtain ⟨t, hrun, hidle, hsck, hlast, hevt, hbits, hpending, hlistening, -, hpush, -⟩ :=
    conversionIsOneEvent s.handlerStart hstart hrest
  obtain ⟨hanswer, hhead, hcount, hlost, hbuf⟩ := hpush rfl hl
  have hslot := State.slot_congr hbuf
  refine ⟨t, ?run, fun p hp => ?bit, hlast, hsck, by simp [State.cmdReady, hidle, hevt], hpending, hlistening.trans hl,
    hanswer, fun hroom => ?stored, fun hfull => ?lost⟩
  case run =>
    rw [Nat.add_comm, ticks_succ (step_of_dispatch_low hr he hp hd)]
    exact hrun
  case bit => rw [hbits p hp, s.handlerStart_inputAt]
  case stored =>
    simp only [hhead, hcount, hlost, hslot]
    exact State.push_of_room (s := s.handlerStart) (assembleSample s.last t.acc) hroom
  case lost =>
    have hnoRoom : 8 ≤ s.handlerStart.count.toNat := (congrArg BitVec.toNat hfull).ge
    have hseven : s.handlerStart.count - 1 = 7 := by rw [show s.handlerStart.count = 8 from hfull]; rfl
    simp only [hhead, hcount, hlost, hslot, ← hseven]
    exact State.push_without_room (assembleSample s.last t.acc) hnoRoom

end Sys2Proof.Machine
end

section
/-! SUPPORT. The proofs about the sample ring buffer (`41_sample_ring_buffer.md`): `push`, `pop` and runs of them (R121
to R126, R132), the commands that reach the buffer (R127 to R130), and the conversion a fallback `READ` runs (R128). -/

namespace Sys2Proof.Machine

/-! ## The saturating increment (R126) -/

/-- Below `LOST_MAX` the sum is formed without loss; at `LOST_MAX` the minimum is what was there. -/
theorem satInc_toNat (v : Word) : (satInc v).toNat = min (v.toNat + 1) 0xFFFFFFFF := by
  unfold satInc
  split
  case isTrue hmax => simp [hmax]
  case isFalse hmax =>
    bv_omega

/-- The increment of a count that saturates is the saturated increment of the count. -/
theorem satInc_toNat_of_min {v : Word} {n : Nat} (h : v.toNat = min n 0xFFFFFFFF) :
    (satInc v).toNat = min (n + 1) 0xFFFFFFFF := by
  rw [satInc_toNat, h]
  generalize 0xFFFFFFFF = lostMax
  omega

/-- Settles O30: the fixed point is where the minimum is no larger than the value. -/
theorem satIncSaturates : Obligations.SatIncSaturates := by
  intro v
  have hmin := satInc_toNat v
  refine ⟨hmin, fun hfix => ?_, fun hmax => hmax ▸ rfl⟩
  rw [hfix] at hmin
  bv_omega

/-! ## One push and one pop (R121 to R123) -/

theorem State.push_count_of_room {s : State} (v : Word) (h : s.count.toNat < 8) :
    (s.push v).count.toNat = s.count.toNat + 1 := by
  obtain ⟨-, -, -, hcount, -⟩ := State.push_of_room v h
  bv_omega

theorem State.push_count_of_full {s : State} (v : Word) (h : 8 ≤ s.count.toNat) :
    (s.push v).count.toNat + 1 = s.count.toNat := by
  obtain ⟨-, -, hcount, -⟩ := State.push_without_room v h
  bv_omega

/-- Settles O27: the free slot gets the sample, and a push with room writes the storage and the count alone. -/
theorem pushStoresInTheNextSlot : Obligations.PushStoresInTheNextSlot := by
  intro s v hroom
  obtain ⟨hstored, hothers, -⟩ := State.push_of_room v hroom
  refine ⟨s.pushSlot_toNat, hstored, hothers, State.push_count_of_room v hroom, ?_⟩
  rcases s.push_cases v with ⟨-, e⟩ | ⟨hfull, -⟩
  · rw [e]
  · omega

/-- Settles O28: a push without room, at the count 8. -/
theorem pushOnAFullBufferFreesASlot : Obligations.PushOnAFullBufferFreesASlot := by
  intro s v hfull
  rcases s.push_cases v with ⟨hroom, -⟩ | ⟨-, e⟩
  · simp [hfull] at hroom
  · rw [e]
    exact ⟨by simp [hfull], nextSlot_toNat s.head⟩

/-- Settles O29: an empty buffer, and the removal of the oldest entry. -/
theorem popTakesTheOldest : Obligations.PopTakesTheOldest := by
  intro s
  rcases s.pop_cases with ⟨hempty, e⟩ | ⟨hne, e⟩
  · exact ⟨fun _ => e, fun hne => absurd hempty hne⟩
  · refine ⟨fun hempty => absurd hempty hne, fun _ => ⟨_, e, nextSlot_toNat s.head, ?_, rfl⟩⟩
    bv_omega

/-! ## Runs of pushes, and of pops after them (R125, R132) -/

theorem State.pushAll_concat (s : State) (xs : List Word) (v : Word) :
    s.pushAll (xs ++ [v]) = (s.pushAll xs).push v := by
  simp [State.pushAll]

/-- A push adds its sample at the end of the contents, or loses it and the first entry. -/
theorem State.contents_push_sublist (s : State) (v : Word) : (s.push v).contents.Sublist (s.contents ++ [v]) := by
  rcases Nat.lt_or_ge s.count.toNat 8 with hroom | hfull
  · rw [State.contents_push v hroom]
  · rw [State.contents_push_full v hfull]
    exact (List.sublist_append_left _ _).trans (List.sublist_cons_self _ _)

theorem State.push_count_le {s : State} (v : Word) (h : s.count.toNat ≤ 8) : (s.push v).count.toNat ≤ 8 := by
  rcases Nat.lt_or_ge s.count.toNat 8 with hroom | hfull
  · have hcount := State.push_count_of_room v hroom
    omega
  · have hcount := State.push_count_of_full v hfull
    omega

theorem State.contents_pushAll_sublist {s : State} (hs : s.count = 0) (xs : List Word) :
    (s.pushAll xs).contents.Sublist xs := by
  induction xs using List.reverseRecOn with
  | nil => simp [State.pushAll, State.contents_of_count_zero hs]
  | append_singleton xs v ih =>
    rw [State.pushAll_concat]
    exact (State.contents_push_sublist _ v).trans (ih.append_right [v])

theorem State.pushAll_count_le {s : State} (hs : s.count = 0) (xs : List Word) : (s.pushAll xs).count.toNat ≤ 8 := by
  induction xs using List.reverseRecOn with
  | nil => simp [State.pushAll, hs]
  | append_singleton xs v ih =>
    rw [State.pushAll_concat]
    exact State.push_count_le v ih

/-- Up to `capacity` pushes into an empty buffer all find room (R121). -/
theorem State.pushAll_within_capacity {s : State} (hs : s.count = 0) {xs : List Word} (hlen : xs.length ≤ 8) :
    (s.pushAll xs).contents = xs ∧ (s.pushAll xs).lost = s.lost ∧ (s.pushAll xs).head = s.head := by
  induction xs using List.reverseRecOn with
  | nil => exact ⟨State.contents_of_count_zero hs, rfl, rfl⟩
  | append_singleton xs v ih =>
    rw [List.length_append, List.length_singleton] at hlen
    obtain ⟨hcontents, hlost, hhead⟩ := ih (by omega)
    have hroom : (s.pushAll xs).count.toNat < 8 := by
      rw [← State.contents_length, hcontents]
      omega
    obtain ⟨-, -, hhead', -, hlost'⟩ := State.push_of_room v hroom
    rw [State.pushAll_concat, State.contents_push v hroom, hcontents]
    exact ⟨rfl, hlost'.trans hlost, hhead'.trans hhead⟩

theorem State.pushAll_count_within_capacity {s : State} (hs : s.count = 0) {xs : List Word} (hlen : xs.length ≤ 8) :
    (s.pushAll xs).count.toNat = xs.length := by
  rw [← State.contents_length, (State.pushAll_within_capacity hs hlen).1]

/-- Of the pushes after the eighth, the first and every second after it finds the buffer full and frees a slot, which
the next one fills (reading A of C1). -/
theorem State.pushAll_beyond_capacity {s : State} (hs : s.count = 0) {j : Nat} {xs : List Word}
    (hlen : xs.length = 8 + j) :
    (s.pushAll xs).lost.toNat = min (s.lost.toNat + (j + 1) / 2) 0xFFFFFFFF ∧
    (s.pushAll xs).head.toNat = (s.head.toNat + (j + 1) / 2) % 8 ∧
    (s.pushAll xs).count.toNat = (if j % 2 = 1 then 7 else 8) := by
  induction j generalizing xs with
  | zero =>
    obtain ⟨-, hlost, hhead⟩ := State.pushAll_within_capacity hs hlen.le
    have hcount := State.pushAll_count_within_capacity hs hlen.le
    have hlostMax := s.lost.isLt
    have hheadMax := s.head.isLt
    rw [hlost, hhead, hcount, if_neg (by decide)]
    exact ⟨by omega, by omega, hlen⟩
  | succ j ih =>
    obtain rfl | ⟨ys, v, rfl⟩ := xs.eq_nil_or_concat'
    · simp at hlen
    rw [List.length_append, List.length_singleton] at hlen
    obtain ⟨hlost, hhead, hcount⟩ := ih (xs := ys) (by omega)
    rw [State.pushAll_concat]
    rcases Nat.mod_two_eq_zero_or_one j with hj | hj
    · rw [if_neg (by omega)] at hcount
      have hcount' := State.push_count_of_full v hcount.ge
      obtain ⟨-, hhead', -, hlost'⟩ := State.push_without_room v hcount.ge
      rw [hlost', satInc_toNat_of_min hlost, hhead', State.windowSlot_toNat, hhead,
        show (j + 1 + 1) / 2 = (j + 1) / 2 + 1 by omega, if_pos (by omega)]
      exact ⟨rfl, by omega, by omega⟩
    · rw [if_pos hj] at hcount
      have hroom : (s.pushAll ys).count.toNat < 8 := by omega
      have hcount' := State.push_count_of_room v hroom
      obtain ⟨-, -, hhead', -, hlost'⟩ := State.push_of_room v hroom
      rw [hlost', hlost, hhead', hhead, show (j + 1 + 1) / 2 = (j + 1) / 2 by omega, if_neg (by omega)]
      exact ⟨rfl, rfl, by omega⟩

/-- Settles O31: the run up to the eighth push, and the run beyond it. -/
theorem pushRunAlternatesDropAndStore : Obligations.PushRunAlternatesDropAndStore := by
  intro s xs hs
  refine ⟨State.contents_pushAll_sublist hs xs, State.pushAll_count_le hs xs, fun hlen => ?_,
    fun j hlen _ => State.pushAll_beyond_capacity hs hlen⟩
  obtain ⟨hcontents, hlost, hhead⟩ := State.pushAll_within_capacity hs hlen
  exact ⟨State.pushAll_count_within_capacity hs hlen, hlost, hhead, hcontents⟩

/-- Sequential pops take the contents from the front. -/
theorem State.drain_eq_take (n : Nat) (s : State) : s.drain n = s.contents.take n := by
  induction n generalizing s with
  | zero => rfl
  | succ n ih =>
    unfold State.drain
    cases hpop : s.pop with
    | none =>
      rcases s.pop_cases with ⟨hempty, -⟩ | ⟨-, e⟩
      · rw [State.contents_of_count_zero hempty, List.take_nil]
      · simp [hpop] at e
    | some vt =>
      obtain ⟨v, t⟩ := vt
      rw [State.contents_pop hpop, List.take_succ_cons]
      exact congrArg _ (ih t)

/-- Settles O32: the pops take the contents, which are the pushed samples. -/
theorem pushedSamplesPopInOrder : Obligations.PushedSamplesPopInOrder := by
  intro s xs n hs hlen hn
  obtain ⟨hcontents, -⟩ := State.pushAll_within_capacity hs hlen
  rw [State.drain_eq_take, hcontents, List.take_of_length_le hn]

/-! ## The commands that answer at once (R127 to R130) -/

/-- A command is accepted only by an idle engine and with no event standing (R185). -/
theorem open_of_accepts {s : State} {i : Instr} (h : Accepts s i) : s.eng = .idle ∧ s.evtPend = false := by
  obtain ⟨-, -, hready, -⟩ := h
  simpa [State.cmdReady] using hready

/-- A command that moves neither the engine nor the mask nor the latch: its tick records the edge it sees while
listening (R173). -/
theorem step_of_accepts_keeping_mask {s u : State} {i : Instr} (h : Accepts s i)
    (hx : exec i (beginTick s) = .next u) (he : u.eng = s.eng) (hl : u.listening = s.listening)
    (hp : u.evtPend = s.evtPend) : step s = .next { u with
      doutPrev := s.now.dout, evtPend := s.listening && s.edge, inputs := s.inputs.tail, tick := s.tick + 1 } := by
  obtain ⟨hidle, hnone⟩ := open_of_accepts h
  have latch : evtPendNext s u = (s.listening && s.edge) := by
    simp [evtPendNext, State.notifyEn, he, hl, hp, hidle, hnone]
  rw [step_of_accepts h hx, endTick, latch]

/-- Settles O14: the one state `AVAILABLE` answers, in the frame of its tick. -/
theorem availableAnswersTheCount : Obligations.AvailableAnswersTheCount := fun a s =>
  ⟨decodeWord_append rfl rfl, exec_available a s,
    fun h => step_of_accepts_keeping_mask h (exec_available a (beginTick s)) rfl rfl rfl⟩

/-- Settles O16: the one state `LOST` answers, in the frame of its tick. -/
theorem lostAnswersTheCounter : Obligations.LostAnswersTheCounter := fun a s =>
  ⟨decodeWord_append rfl rfl, exec_lost a s,
    fun h => step_of_accepts_keeping_mask h (exec_lost a (beginTick s)) rfl rfl rfl⟩

/-- Settles O17: the one state `RESET_LOST` answers, in the frame of its tick. -/
theorem resetLostClearsTheCounter : Obligations.ResetLostClearsTheCounter := fun a s =>
  ⟨decodeWord_append rfl rfl, exec_resetLost a s,
    fun h => step_of_accepts_keeping_mask h (exec_resetLost a (beginTick s)) rfl rfl rfl⟩

/-! ## `READ` (R128) -/

theorem exec_read_of_nonempty (a : Arg) {s : State} (hc : s.count ≠ 0) : exec (.read a) s = .next (State.respond
    { s with head := s.windowSlot 1, count := s.count - 1 } true (s.slot s.head)) := by
  rcases exec_read_cases a s with ⟨-, e⟩ | ⟨hc', -⟩ | ⟨hc', -⟩
  · exact e
  all_goals exact absurd hc' hc

theorem exec_read_of_empty_low (a : Arg) {s : State} (hc : s.count = 0) (hd : s.now.dout = false) :
    exec (.read a) s = .next (s.convStart .fg) := by
  rcases exec_read_cases a s with ⟨hc', -⟩ | ⟨-, -, e⟩ | ⟨-, hd', -⟩
  · exact absurd hc hc'
  · exact e
  · simp [hd] at hd'

theorem exec_read_of_empty_high (a : Arg) {s : State} (hc : s.count = 0) (hd : s.now.dout = true) :
    exec (.read a) s = .next (s.respond false 0) := by
  rcases exec_read_cases a s with ⟨hc', -⟩ | ⟨-, hd', -⟩ | ⟨-, -, e⟩
  · exact absurd hc hc'
  · simp [hd] at hd'
  · exact e

/-- The state after a tick that accepts a fallback `READ`: the first of its conversion (R92, R128 case 2). -/
def State.readStart (s : State) : State := endTick s ((beginTick s).convStart .fg)

theorem State.readStart_atConversionStart (s : State) : AtConversionStart s.readStart := ⟨rfl, rfl, rfl, rfl⟩

theorem State.readStart_inputAt (s : State) (j : Nat) : s.readStart.inputAt j = s.inputAt (1 + j) := by
  rw [State.readStart, endTick_inputAt, Nat.add_comm]

theorem step_of_fallback_read {a : Arg} {s : State} (h : Accepts s (.read a)) (hc : s.count = 0)
    (hd : s.now.dout = false) : step s = .next s.readStart :=
  step_of_accepts h (exec_read_of_empty_low a (s := beginTick s) hc hd)

/-- Settles O15: each of the three cases in the frame of its tick. -/
theorem readHasThreeCases : Obligations.ReadHasThreeCases := by
  intro a s
  refine ⟨decodeWord_append rfl rfl, fun hc => ⟨exec_read_of_nonempty a hc, fun h => ?popped⟩,
    fun hc hd => ⟨exec_read_of_empty_low a hc hd, fun h => ?started⟩,
    fun hc hd => ⟨exec_read_of_empty_high a hc hd, fun h => ?nothing⟩⟩
  case popped =>
    exact step_of_accepts_keeping_mask h (exec_read_of_nonempty a (s := beginTick s) hc) rfl rfl rfl
  case started =>
    rw [step_of_fallback_read h hc hd, State.readStart, endTick_to_busy s (by simp), hd]
    rfl
  case nothing =>
    rw [step_of_accepts_keeping_mask h (exec_read_of_empty_high a (s := beginTick s) hc hd) rfl rfl rfl, hd]
    rfl

/-- While the conversion of a fallback `READ` runs, the `READ` has no response yet and the port is closed (R186). -/
theorem ticks_readStart_silent {s : State} (hr : OutOfReset (2 * (24 + s.pending.toNat)) s.readStart) {k : Nat}
    (hk : k < 2 * (24 + s.pending.toNat)) :
    ∃ u, ticks k s.readStart = .next u ∧ u.rspValid = false ∧ u.cmdReady = false := by
  obtain ⟨u, hrun, h⟩ := ticks_midConversion s.readStart_atConversionStart hr hk
  refine ⟨u, hrun, ?_, by simp [State.cmdReady, h.busy]⟩
  rcases Nat.eq_zero_or_pos k with rfl | hpos
  · cases hrun
    rfl
  · exact h.rspValid hpos

/-- Settles O52: the accepting tick, then the conversion as one event of the foreground. -/
theorem fallbackReadAnswersTheSample : Obligations.FallbackReadAnswersTheSample := by
  intro a s h hc hd hreset
  have hstart := step_of_fallback_read h hc hd
  have hrest : OutOfReset (2 * (24 + s.pending.toNat)) s.readStart := fun j hj => by
    rw [s.readStart_inputAt]
    exact hreset _ (by omega)
  refine ⟨fun j hj hle => ?silent, ?answered⟩
  case silent =>
    obtain ⟨k, rfl⟩ : ∃ k, j = k + 1 := ⟨j - 1, by omega⟩
    rw [ticks_succ hstart]
    exact ticks_readStart_silent hrest hle
  case answered =>
    obtain ⟨t, hrun, hidle, hsck, hlast, hevt, hbits, hpending, hlistening, hanswer, -⟩ :=
      conversionIsOneEvent s.readStart s.readStart_atConversionStart hrest
    obtain ⟨hvalid, hok, hdata, hhead, hcount, hlost, hbuf⟩ := hanswer rfl
    refine ⟨t, ?run, hvalid, hok, hdata, fun p hp => ?bit, hlast, hsck, by simp [State.cmdReady, hidle, hevt],
      hpending, hlistening, hhead, hcount.trans hc, hlost, hbuf⟩
    case run =>
      rw [Nat.add_comm, ticks_succ hstart]
      exact hrun
    case bit => rw [hbits p hp, s.readStart_inputAt]

end Sys2Proof.Machine
end

section
/-! SUPPORT. The proofs about the gain/channel sequencer (`42_gain_channel_sequencer.md`): what `SET_GAIN` takes (R141,
R142), and the lag of the tag behind the selection (R144). -/

namespace Sys2Proof.Machine

/-! ## The setter (R141) and its command (R142) -/

/-- The setter writes one field: the code it takes, or what was there. -/
theorem State.setPending_eq (s : State) (sel : Arg) :
    s.setPending sel = { s with pending := (selectionOf sel).getD s.pending } := by
  rcases s.setPending_cases sel with ⟨g, hg, e⟩ | ⟨hg, e⟩ <;> rw [e, hg] <;> rfl

theorem exec_setGain_eq (sel : Arg) (s : State) : exec (.setGain sel) s = .next { s with
    pending := (selectionOf sel).getD s.pending, rspValid := true, rspOk := true, rspData := 0 } := by
  rw [exec_setGain, State.setPending_eq]
  rfl

/-- The tick that accepts `SET_GAIN`. -/
theorem step_of_setGain {sel : Arg} {s : State} (h : Accepts s (.setGain sel)) : step s = .next { s with
    pending := (selectionOf sel).getD s.pending, rspValid := true, rspOk := true, rspData := 0,
    doutPrev := s.now.dout, evtPend := s.listening && s.edge, inputs := s.inputs.tail, tick := s.tick + 1 } :=
  step_of_accepts_keeping_mask h (exec_setGain_eq sel (beginTick s)) rfl rfl rfl

/-- Settles O18: the selection written is the one of `selectionOf`, which has one case for each of the three codes. -/
theorem setGainTakesOnlyTheThreeCodes : Obligations.SetGainTakesOnlyTheThreeCodes := by
  intro sel s
  refine ⟨(selectionOf sel).getD s.pending, decodeWord_append rfl rfl, ?one, ?two, ?three, fun h1 h2 h3 => ?other,
    exec_setGain_eq sel s, step_of_setGain⟩
  case one | two | three =>
    rintro rfl
    rfl
  case other =>
    rcases selectionOf_cases sel with ⟨h, -⟩ | ⟨h, -⟩ | ⟨h, -⟩ | ⟨-, -, -, hnone⟩
    · exact absurd h h1
    · exact absurd h h2
    · exact absurd h h3
    · rw [hnone]
      rfl

/-! ## The inputs of a run -/

/-- Every tick uses up its inputs, whatever it does. -/
theorem step_inputAt {s t : State} (h : step s = .next t) (j : Nat) : t.inputAt j = s.inputAt (j + 1) := by
  rcases step_cases h with ⟨-, rfl⟩ | ⟨-, -, rfl⟩ | ⟨-, -, rfl⟩ | ⟨-, -, i, u, -, -, rfl⟩ | ⟨-, -, -, rfl⟩ <;>
    exact State.inputAt_of_tail rfl rfl j

theorem ticks_inputAt {s t : State} {k : Nat} (h : ticks k s = .next t) (j : Nat) :
    t.inputAt j = s.inputAt (k + j) := by
  induction k generalizing s with
  | zero =>
    cases h
    rw [Nat.zero_add]
  | succ k ih =>
    cases hs : step s with
    | next u =>
      rw [ticks_succ hs] at h
      rw [ih h, step_inputAt hs, Nat.add_right_comm]
    | fault f => cases f
    | refused r => simp [ticks, hs] at h

/-! ## The lag (R144) -/

/-- The port is open and the buffer empty, so that a `READ` can convert in the foreground (R128 case 2, R185), with the
selection `g` pending and the selection `l` last applied. -/
structure OpenAndEmpty (g l : Selection) (s : State) : Prop where
  cmdReady : s.cmdReady = true
  count : s.count = 0
  pending : s.pending = g
  last : s.last = l

/-- While the block is not listening, its tick that accepts a valid `SET_GAIN` records no event and leaves the port
open. -/
theorem OpenAndEmpty.of_setGain {sel : Arg} {g : Selection} {s : State} (hsel : selectionOf sel = some g)
    (h : Accepts s (.setGain sel)) (hl : s.listening = false) (hc : s.count = 0) :
    ∃ t, step s = .next t ∧ OpenAndEmpty g s.last t := by
  obtain ⟨hidle, -⟩ := open_of_accepts h
  exact ⟨_, step_of_setGain h, by simp [State.cmdReady, hidle, hl], hc, by simp [hsel], rfl⟩

/-- A `READ` taken `k` ticks on, on a low line: its sample has the old `last` for its tag, and `last` becomes what is
pending (R95, R96). -/
theorem OpenAndEmpty.after_read {g l : Selection} {a : Arg} {s t : State} {k : Nat} (h : OpenAndEmpty g l t)
    (hrun : ticks k s = .next t) (hreset : OutOfReset (k + (1 + 2 * (24 + g.toNat))) s)
    (hvalid : (s.inputAt k).cmdValid = true) (hword : decodeWord (s.inputAt k).cmdWord = .read a)
    (hlow : (s.inputAt k).dout = false) :
    ∃ u, ticks (k + (1 + 2 * (24 + g.toNat))) s = .next u ∧ OpenAndEmpty g g u ∧
      u.rspOk = true ∧ u.rspData.extractLsb' 30 2 = l := by
  obtain ⟨hready, hcount, rfl, rfl⟩ := h
  have hinputs := ticks_inputAt hrun
  have hnow : t.now = s.inputAt k := hinputs 0
  have haccepts : Accepts t (.read a) := by
    rw [Accepts, hnow]
    exact ⟨hreset k (by omega), hvalid, hready, hword⟩
  have hrest : OutOfReset (1 + 2 * (24 + t.pending.toNat)) t := fun j hj => by
    rw [hinputs]
    exact hreset _ (by omega)
  obtain ⟨-, u, hread, -, hok, hdata, -, hlast, -, hready', hpending, -, -, hcount', -, -⟩ :=
    fallbackReadAnswersTheSample a t haccepts hcount (by rw [hnow, hlow]) hrest
  exact ⟨u, (ticks_add _ hrun).trans hread, ⟨hready', hcount', hpending, hlast⟩, hok,
    by rw [hdata, assembleSample_tag]⟩

/-- Settles O54: `SET_GAIN` leaves the old `last` to the first `READ`, and the first `READ` leaves `g` to the second. -/
theorem tagLagsByOneConversion : Obligations.TagLagsByOneConversion := by
  intro sel a b g s hsel hset hl hc hreset hvalid1 hword1 hlow1 hvalid2 hword2 hlow2
  obtain ⟨t, hstep, hopen⟩ := OpenAndEmpty.of_setGain hsel hset hl hc
  obtain ⟨u, hfirst, hopen', hok, htag⟩ := hopen.after_read (k := 1) (ticks_succ hstep 0)
    (fun j hj => hreset j (by omega)) hvalid1 hword1 hlow1
  rw [show 1 + (1 + 2 * (24 + g.toNat)) = 2 + 2 * (24 + g.toNat) by omega] at hfirst
  have hticks : 2 + 2 * (24 + g.toNat) + (1 + 2 * (24 + g.toNat)) = 3 + 4 * (24 + g.toNat) := by omega
  obtain ⟨v, hsecond, -, hok', htag'⟩ := hopen'.after_read hfirst (by rwa [hticks]) hvalid2 hword2 hlow2
  rw [hticks] at hsecond
  exact ⟨⟨u, hfirst, hok, htag⟩, v, hsecond, hok', htag'⟩

end Sys2Proof.Machine
end

section
/-! SUPPORT. The proofs about power and interrupt control (`43_power_interrupt_control.md`): the commands that write the
mask (R150 to R152) and the ones that move the clock line (R156, R157). -/

namespace Sys2Proof.Machine

/-! ## The commands that write the mask (R150 to R152) -/

/-- A command that moves neither the engine nor the latch: its tick records the edge it sees only with the mask open both
before it and after it (R173). -/
theorem step_of_accepts_writing_mask {s u : State} {i : Instr} (h : Accepts s i)
    (hx : exec i (beginTick s) = .next u) (he : u.eng = s.eng) (hp : u.evtPend = s.evtPend) : step s = .next { u with
      doutPrev := s.now.dout, evtPend := u.listening && (s.listening && s.edge), inputs := s.inputs.tail,
      tick := s.tick + 1 } := by
  obtain ⟨hidle, hnone⟩ := open_of_accepts h
  have latch : evtPendNext s u = (u.listening && (s.listening && s.edge)) := by
    simp [evtPendNext, State.notifyEn, he, hp, hidle, hnone]
  rw [step_of_accepts h hx, endTick, latch]

/-- Settles O11: `INIT` leaves the mask closed, so its tick records no edge. -/
theorem initRestoresTheDataModel : Obligations.InitRestoresTheDataModel := fun a s =>
  ⟨decodeWord_append rfl rfl, exec_init a s,
    fun h => step_of_accepts_writing_mask h (exec_init a (beginTick s)) rfl rfl⟩

/-- Settles O12: `ENABLE` leaves the mask open, so its tick records an edge if the mask was open before. -/
theorem enableOpensTheMask : Obligations.EnableOpensTheMask := fun a s =>
  ⟨decodeWord_append rfl rfl, exec_enable a s,
    fun h => step_of_accepts_writing_mask h (exec_enable a (beginTick s)) rfl rfl⟩

/-- Settles O13: `DISABLE` leaves the mask closed, so its tick records no edge. -/
theorem disableClosesTheMask : Obligations.DisableClosesTheMask := fun a s =>
  ⟨decodeWord_append rfl rfl, exec_disable a s,
    fun h => step_of_accepts_writing_mask h (exec_disable a (beginTick s)) rfl rfl⟩

/-! ## The commands that move the clock line (R156, R157) -/

/-- Settles O19: the one state `POWER_DOWN` answers, in the frame of a tick that keeps the mask. -/
theorem powerDownRaisesTheClockLine : Obligations.PowerDownRaisesTheClockLine := fun a s =>
  ⟨decodeWord_append rfl rfl, exec_powerDown a s,
    fun h => step_of_accepts_keeping_mask h (exec_powerDown a (beginTick s)) rfl rfl rfl⟩

/-- Settles O20: the tag `POWER_UP` leaves is chosen by the clock line of before the tick. -/
theorem powerUpResetsTheTagOfAHighLine : Obligations.PowerUpResetsTheTagOfAHighLine := fun a s =>
  ⟨if s.sck then 1 else s.last, fun hhigh => if_pos hhigh, fun hlow => if_neg (ne_true_of_eq_false hlow),
    decodeWord_append rfl rfl, exec_powerUp a s,
    fun h => step_of_accepts_keeping_mask h (exec_powerUp a (beginTick s)) rfl rfl rfl⟩

end Sys2Proof.Machine
end

section
/-! SUPPORT. The proofs about the ready detector (`44_ready_detector.md`): the equation of the pending latch in every tick
out of reset, and what follows from it (R171 to R173). -/

namespace Sys2Proof.Machine

/-! ## The mask and the edge (R171, R172) -/

theorem State.notifyEn_iff (s : State) : s.notifyEn = true ↔ s.listening = true ∧ s.eng = .idle := by
  simp [State.notifyEn]

theorem State.edge_iff (s : State) : s.edge = true ↔ s.now.dout ≠ s.doutPrev := bne_iff_ne

/-- The end of a tick leaves the mask to the activity. -/
theorem endTick_notifyEn (s u : State) : (endTick s u).notifyEn = u.notifyEn := rfl

/-! ## The latch (R173) -/

theorem State.handlerEntry_evtPend (s : State) : s.handlerEntry.evtPend = false := by
  rcases s.handlerEntry_cases with ⟨-, e⟩ | ⟨-, e⟩ <;> simp [e]

/-- Of all operations only `HANDLER` consumes a recorded event (R206). -/
theorem exec_evtPend_iff {i : Instr} {s t : State} (h : exec i s = .next t) :
    t.evtPend = true ↔ s.evtPend = true ∧ i ≠ .handler := by
  obtain ⟨-, -, -, -, -, -, -, frame, -⟩ := operationsWriteOnlyWhatTheAccessTableGives i s t h
  cases i with
  | handler => cases h; simp [State.handlerEntry_evtPend]
  | _ => simp [frame]

/-- Before the detector's updates a tick keeps a recorded event, unless it dispatches the handler for it (R173). -/
theorem step_eq_endTick {s t : State} (hr : s.now.rstN = true) (h : step s = .next t) :
    ∃ u, t = endTick s u ∧ (u.evtPend = true ↔ s.evtPend = true ∧ activity s ≠ .run .handler) := by
  rcases step_cases_outOfReset hr h with ⟨he, -, ht⟩ | ⟨he, -, -, ht⟩ | ⟨he, -, ht⟩ | ⟨-, -, i, u, ha, hx, ht⟩ |
    ⟨-, -, ha, ht⟩
  · exact ⟨_, ht, by simp [convHigh, activity, he]⟩
  · exact ⟨_, ht, by simp [activity, he]⟩
  · obtain ⟨-, -, -, hevt⟩ := convFinish_engine_frame (beginTick s)
    exact ⟨_, ht, by simp [hevt, activity, he]⟩
  · exact ⟨u, ht, by simpa [ha] using exec_evtPend_iff hx⟩
  · exact ⟨_, ht, by simp [ha]⟩

/-- The equation of the latch, in every tick out of reset (R173). -/
theorem step_evtPend_iff {s t : State} (hr : s.now.rstN = true) (h : step s = .next t) :
    t.evtPend = true ↔ t.notifyEn = true ∧
      ((s.notifyEn = true ∧ s.now.dout ≠ s.doutPrev) ∨ (s.evtPend = true ∧ activity s ≠ .run .handler)) := by
  obtain ⟨u, rfl, hu⟩ := step_eq_endTick hr h
  simp only [endTick_evtPend, evtPendNext, endTick_notifyEn, Bool.and_eq_true, Bool.or_eq_true, s.edge_iff, hu]

theorem step_doutPrev {s t : State} (hr : s.now.rstN = true) (h : step s = .next t) : t.doutPrev = s.now.dout := by
  obtain ⟨u, rfl, -⟩ := step_eq_endTick hr h
  rfl

/-! ## A tick that starts a conversion -/

/-- A conversion is started by the handler or by a `READ` of an empty buffer, on a low line (R99, R128 case 2). -/
theorem State.startsConversion_cases {s : State} (h : s.startsConversion = true) :
    s.now.rstN = true ∧ s.now.dout = false ∧
      (activity s = .run .handler ∨ ∃ a, activity s = .run (.read a) ∧ s.count = 0) := by
  simp only [State.startsConversion, State.ready, Bool.and_eq_true, Bool.not_eq_true'] at h
  obtain ⟨⟨hr, hd⟩, hactivity⟩ := h
  refine ⟨hr, hd, ?_⟩
  split at hactivity
  next ha => exact .inl ha
  next a ha => exact .inr ⟨a, ha, of_decide_eq_true hactivity⟩
  next => cases hactivity

/-- After a tick that starts a conversion the engine runs (R92). -/
theorem step_eng_of_startsConversion {s t : State} (hs : s.startsConversion = true) (h : step s = .next t) :
    t.eng = .high := by
  obtain ⟨hr, hd, ha | ⟨a, ha, hc⟩⟩ := State.startsConversion_cases hs
  · obtain ⟨u, hx, rfl⟩ := exec_of_activity_run hr ha h
    rw [exec_handler, State.handlerEntry_of_low (s := beginTick s) hd] at hx
    cases hx
    rfl
  · obtain ⟨u, hx, rfl⟩ := exec_of_activity_run hr ha h
    rw [exec_read_of_empty_low a (s := beginTick s) hc hd] at hx
    cases hx
    rfl

/-! ## A tick that dispatches the handler on a high line -/

/-- Only an idle engine runs an operation (R181). -/
theorem idle_of_activity_run {s : State} {i : Instr} (ha : activity s = .run i) : s.eng = .idle := by
  cases he : s.eng with
  | idle => rfl
  | high => simp [activity, he] at ha
  | low => simp [activity, he] at ha

/-- The handler dispatched on a rise starts nothing, records the rise and is dispatched for it in the next tick (R173). -/
theorem handler_again_after_rise {s t : State} (hr : s.now.rstN = true) (h : step s = .next t)
    (ha : activity s = .run .handler) (hd : s.now.dout = true) (hprev : s.doutPrev = false)
    (hl : s.listening = true) : t.evtPend = true ∧ activity t = .run .handler := by
  have he := idle_of_activity_run ha
  obtain ⟨u, hx, ht⟩ := exec_of_activity_run hr ha h
  rw [exec_handler, State.handlerEntry_of_high (s := beginTick s) hd] at hx
  cases hx
  have hidle : t.eng = .idle := by rw [ht]; exact he
  have hlistening : t.listening = true := by rw [ht]; exact hl
  have hevt : t.evtPend = true := (step_evtPend_iff hr h).2
    ⟨t.notifyEn_iff.2 ⟨hlistening, hidle⟩, .inl ⟨s.notifyEn_iff.2 ⟨hl, he⟩, by simp [hd, hprev]⟩⟩
  exact ⟨hevt, (activity_run_iff hidle .handler).2 (.inl ⟨hevt, rfl⟩)⟩

/-- Settles O34: the equation of the latch, and its consequences by the mask before and after the tick. -/
theorem pendingLatchFollowsItsEquation : Obligations.PendingLatchFollowsItsEquation := by
  intro s t hr h
  have latch := step_evtPend_iff hr h
  have masked : t.evtPend = true → t.listening = true ∧ t.eng = .idle := fun hp => t.notifyEn_iff.1 (latch.1 hp).1
  refine ⟨step_doutPrev hr h, s.notifyEn_iff, latch, masked, fun hf hnone => ?finished, fun hs => ?started,
    handler_again_after_rise hr h⟩
  case finished =>
    obtain ⟨hlow, -⟩ := s.finishing_iff.1 hf
    refine Bool.eq_false_iff.2 fun hp => ?_
    rcases (latch.1 hp).2 with ⟨hopen, -⟩ | ⟨hevt, -⟩
    · simp [State.notifyEn, hlow] at hopen
    · simp [hnone] at hevt
  case started =>
    have hhigh := step_eng_of_startsConversion hs h
    refine Bool.eq_false_iff.2 fun hp => ?_
    obtain ⟨-, hidle⟩ := masked hp
    simp [hhigh] at hidle

end Sys2Proof.Machine
end

section
/-! SUPPORT. The proofs about the step and the arbitration (`45_step_and_arbitration.md`): what a tick runs (R181 to
R185), the reserved opcodes (R188), when a tick writes a response (R186), and the closed command port (R183, R187). -/

namespace Sys2Proof.Machine

/-! ## The command port (R185) -/

theorem State.cmdReady_iff (s : State) : s.cmdReady = true ↔ s.eng = .idle ∧ s.evtPend = false := by
  simp [State.cmdReady]

/-- The port is closed while a conversion runs, or while an event waits for its dispatch. -/
theorem State.closed_cases {s : State} (hc : s.cmdReady = false) :
    s.eng = .high ∨ s.eng = .low ∨ (s.eng = .idle ∧ s.evtPend = true) := by
  cases he : s.eng with
  | high => simp
  | low => simp
  | idle => simpa [State.cmdReady, he] using hc

/-- Settles O8: an idle tick runs the handler, which no word presents, or the presented command. -/
theorem acceptedIffPresentedAndReady : Obligations.AcceptedIffPresentedAndReady := by
  refine fun s i hi => ⟨⟨fun ha => ?runs, fun ⟨hv, hc, hd⟩ => ?accepted⟩, s.cmdReady_iff⟩
  case runs =>
    have he := idle_of_activity_run ha
    rcases (activity_run_iff he i).1 ha with ⟨-, rfl⟩ | ⟨hp, hv, hd⟩
    · cases hi
    · exact ⟨hv, s.cmdReady_iff.2 ⟨he, hp⟩, hd⟩
  case accepted =>
    obtain ⟨he, hp⟩ := s.cmdReady_iff.1 hc
    exact (activity_run_iff he i).2 (.inr ⟨hp, hv, hd⟩)

/-! ## What a tick runs (R181, R184) -/

/-- A tick out of reset whose activity is an operation is that operation in the frame of the tick. -/
theorem step_of_activity_run {s : State} {i : Instr} (hr : s.now.rstN = true) (ha : activity s = .run i) :
    step s = endOperation s (exec i (beginTick s)) := by
  simp [step, hr, ha]

/-- Settles O6: the presented word is one the decoder reads, so its instruction is the activity of the tick. -/
theorem stepRunsTheDecodedCommand : Obligations.StepRunsTheDecodedCommand := by
  intro s i hr hv hc hdecode
  obtain ⟨he, hp⟩ := s.cmdReady_iff.1 hc
  obtain rfl : decodeWord s.now.cmdWord = i := Except.ok.inj ((decode_toNat _).symm.trans hdecode)
  exact step_of_activity_run hr ((activity_run_iff he _).2 (.inr ⟨hp, hv, rfl⟩))

/-- Settles O7: a row of the table of activities for each position of the engine and each input it then looks at. -/
theorem stepRunsTheOtherActivities : Obligations.StepRunsTheOtherActivities := by
  refine fun s hr => ⟨step_of_high hr, step_of_low hr, fun he hp => ?dispatch, fun he hp hv => ?nothing⟩
  case dispatch => exact step_of_activity_run hr ((activity_run_iff he _).2 (.inl ⟨hp, rfl⟩))
  case nothing =>
    have ha : activity s = .nothing := by simp [activity, he, hp, hv]
    simp [step, hr, ha]

/-! ## The reserved opcodes (R188) -/

/-- A reserved operation has an opcode from 10 on, and all it does is to answer not ok. -/
theorem reserved_opcode_and_answer {i : Instr} {a : Arg}
    (hi : i ∈ [Instr.reserved10 a, .reserved11 a, .reserved12 a, .reserved13 a, .reserved14 a, .reserved15 a]) :
    ∃ op : BitVec 4, 10 ≤ op.toNat ∧ opcode i = some op ∧ i.arg = some a ∧
      ∀ s, exec i s = .next (s.respond false 0) := by
  simp only [List.mem_cons, List.not_mem_nil, or_false] at hi
  rcases hi with rfl | rfl | rfl | rfl | rfl | rfl
  · exact ⟨10, by decide, rfl, rfl, exec_reserved10 a⟩
  · exact ⟨11, by decide, rfl, rfl, exec_reserved11 a⟩
  · exact ⟨12, by decide, rfl, rfl, exec_reserved12 a⟩
  · exact ⟨13, by decide, rfl, rfl, exec_reserved13 a⟩
  · exact ⟨14, by decide, rfl, rfl, exec_reserved14 a⟩
  · exact ⟨15, by decide, rfl, rfl, exec_reserved15 a⟩

/-- Settles O21: the one answer of the six, in the frame of its tick. -/
theorem reservedOpcodesAnswerNotOk : Obligations.ReservedOpcodesAnswerNotOk := by
  intro a s i hi
  obtain ⟨op, hop, ho, ha, hx⟩ := reserved_opcode_and_answer hi
  exact ⟨⟨op, hop, decodeWord_append ho ha⟩, hx s,
    fun h => step_of_accepts_keeping_mask h (hx (beginTick s)) rfl rfl rfl⟩

/-! ## The response (R186) -/

/-- From a state without a response, every command answers at once but a fallback `READ`; the handler does not. -/
theorem exec_rspValid_iff {i : Instr} {s t : State} (h : exec i s = .next t) (hs : s.rspValid = false) :
    t.rspValid = true ↔ WellFormed i ∧ ¬ ((∃ a, i = .read a) ∧ s.count = 0 ∧ s.now.dout = false) := by
  cases i with
  | read a =>
    rcases exec_read_cases a s with ⟨hc, e⟩ | ⟨hc, hd, e⟩ | ⟨hc, hd, e⟩ <;> rw [e] at h <;> cases h
    · simpa [WellFormed, Instr.presentable] using fun h => absurd h hc
    · simp [hs, hc, hd]
    · simp [WellFormed, Instr.presentable, hd]
  | handler => cases h; simp [WellFormed, Instr.presentable, hs]
  | _ => cases h; simp [WellFormed, Instr.presentable]

/-- A finish answers the foreground, or leaves the response registers as they are (R96). -/
theorem convFinish_response_cases (s : State) :
    (s.origin = .fg ∧ (convFinish s).rspValid = true) ∨
    (s.origin = .irq ∧ (convFinish s).rspValid = s.rspValid ∧ (convFinish s).rspOk = s.rspOk ∧
      (convFinish s).rspData = s.rspData) := by
  rcases convFinish_cases s with ⟨ho, e⟩ | ⟨ho, -, e⟩ | ⟨ho, -, e⟩ <;> simp [e, ho]

/-- The registers are cleared before the activity of the tick, and the activity writes all three or none. -/
theorem step_no_stale_response {s t : State} (hr : s.now.rstN = true) (h : step s = .next t)
    (hv : t.rspValid = false) : t.rspOk = false ∧ t.rspData = 0 := by
  rcases step_cases_outOfReset hr h with ⟨-, -, rfl⟩ | ⟨-, -, -, rfl⟩ | ⟨-, -, rfl⟩ | ⟨-, -, i, u, -, hx, rfl⟩ |
    ⟨-, -, -, rfl⟩
  · exact ⟨rfl, rfl⟩
  · exact ⟨rfl, rfl⟩
  · rcases convFinish_response_cases (beginTick s) with ⟨-, e⟩ | ⟨-, -, hok, hdata⟩
    · exact absurd hv (by simp [e])
    · exact ⟨hok, hdata⟩
  · rcases exec_response_cases hx with e | ⟨-, hok, hdata⟩
    · exact absurd hv (by simp [e])
    · exact ⟨hok, hdata⟩
  · exact ⟨rfl, rfl⟩

/-- Settles O35: the activities that answer are the commands that complete and the finish of the foreground. -/
theorem responseOnlyOfACompletedCommand : Obligations.ResponseOnlyOfACompletedCommand := by
  refine fun s t hr h => ⟨?answers, step_no_stale_response hr h⟩
  case answers =>
    rcases step_cases_outOfReset hr h with ⟨he, hf, rfl⟩ | ⟨he, hf, -, rfl⟩ | ⟨he, hf, rfl⟩ |
      ⟨-, hf, i, u, ha, hx, rfl⟩ | ⟨-, hf, ha, rfl⟩
    · simp [hf, activity, he, convHigh]
    · simp [hf, activity, he]
    · rcases convFinish_response_cases (beginTick s) with ⟨ho, e⟩ | ⟨ho, e, -⟩ <;>
        simp [hf, activity, he, e, show s.origin = _ from ho]
    · simp [hf, ha, exec_rspValid_iff hx rfl]
    · simp [hf, ha]

/-! ## The closed port (R183) -/

/-- Of this tick's inputs, the end of the tick looks at the line alone. -/
theorem endTick_replacing_inputs {s : State} {i j : TickInput} {rest x : List TickInput} (hs : s.inputs = i :: rest)
    (hd : j.dout = i.dout) (t : State) :
    endTick { s with inputs := j :: rest } { t with inputs := x } = endTick s t := by
  have hnow : (State.now { s with inputs := j :: rest }).dout = s.now.dout := by rw [State.now_of_cons hs]; exact hd
  have hlatch : evtPendNext { s with inputs := j :: rest } { t with inputs := x } = evtPendNext s t := by
    simp only [evtPendNext, State.notifyEn, State.edge, hnow]
  simp only [endTick, hnow, hlatch, hs, List.tail_cons]

/-- Of this tick's inputs, the high tick looks at the line alone (R93). -/
theorem convHigh_replacing_inputs {s : State} {x : List TickInput}
    (hd : (State.now { s with inputs := x }).dout = s.now.dout) :
    convHigh { s with inputs := x } = { convHigh s with inputs := x } := by
  simp only [convHigh, hd]

/-- Of this tick's inputs, the handler looks at the line alone (R99). -/
theorem handlerEntry_replacing_inputs {s : State} {x : List TickInput}
    (hd : (State.now { s with inputs := x }).dout = s.now.dout) :
    State.handlerEntry { s with inputs := x } = { s.handlerEntry with inputs := x } := by
  cases hl : s.now.dout with
  | false => rw [State.handlerEntry_of_low (hd.trans hl), State.handlerEntry_of_low hl]; rfl
  | true => rw [State.handlerEntry_of_high (hd.trans hl), State.handlerEntry_of_high hl]

theorem step_of_reset {s : State} (hr : s.now.rstN = false) : step s = .next (hardReset s) := by
  simp [step, hr]

/-- Of this tick's inputs, a tick that begins with the port closed looks at the reset and the line alone: so do the
three activities it can have, and the frame around them. -/
theorem step_replacing_inputs_of_closed {s : State} {i j : TickInput} {rest : List TickInput}
    (hs : s.inputs = i :: rest) (hc : s.cmdReady = false) (hrst : j.rstN = i.rstN) (hdout : j.dout = i.dout) :
    step { s with inputs := j :: rest } = step s := by
  have hnow := State.now_of_cons hs
  have hd : (State.now { s with inputs := j :: rest }).dout = s.now.dout := by rw [hnow]; exact hdout
  have hr' : (State.now { s with inputs := j :: rest }).rstN = s.now.rstN := by rw [hnow]; exact hrst
  have hend := endTick_replacing_inputs (x := j :: rest) hs hdout
  cases hr : s.now.rstN with
  | false =>
    rw [step_of_reset hr, step_of_reset (hr'.trans hr)]
    simp only [hardReset, hs, List.tail_cons]
  | true =>
    rcases State.closed_cases hc with he | he | ⟨he, hp⟩
    · rw [step_of_high hr he, step_of_high (hr'.trans hr) he, ← hend,
        ← convHigh_replacing_inputs (s := beginTick s) (x := j :: rest) hd]
      rfl
    · rw [step_of_low hr he, step_of_low (hr'.trans hr) he, ← hend, ← convLow_inputs]
      rfl
    · rw [step_of_dispatch hr he hp, step_of_dispatch (hr'.trans hr) he hp, ← hend,
        ← handlerEntry_replacing_inputs (s := beginTick s) (x := j :: rest) hd]
      rfl

/-- Settles O36: the two inputs that such a tick looks at are the ones the host does not drive. -/
theorem closedPortHasNoInfluence : Obligations.ClosedPortHasNoInfluence :=
  fun _ _ _ _ _ hs hc => step_replacing_inputs_of_closed hs hc rfl rfl

/-! ## The wait of a presented command (R187) -/

/-- How many ticks the port can stay closed from here: what the running conversion still takes, two ticks for each pulse
that is not over; or, with an event pending, the dispatch and a conversion. If the line was low in the previous tick it
can rise in the dispatching one, and the rise is then dispatched too. -/
def State.closedTicks (s : State) : Nat :=
  match s.eng with
  | .high => 2 * (24 + s.pending.toNat - s.pulse.toNat)
  | .low => 2 * (24 + s.pending.toNat - s.pulse.toNat) - 1
  | .idle => if s.evtPend then 2 * (24 + s.pending.toNat) + (if s.doutPrev then 1 else 2) else 0

theorem State.closedTicks_of_high {s : State} (he : s.eng = .high) :
    s.closedTicks = 2 * (24 + s.pending.toNat - s.pulse.toNat) := by
  simp [State.closedTicks, he]

theorem State.closedTicks_of_low {s : State} (he : s.eng = .low) :
    s.closedTicks = 2 * (24 + s.pending.toNat - s.pulse.toNat) - 1 := by
  simp [State.closedTicks, he]

theorem State.closedTicks_of_event {s : State} (he : s.eng = .idle) (hp : s.evtPend = true) :
    s.closedTicks = 2 * (24 + s.pending.toNat) + (if s.doutPrev then 1 else 2) := by
  simp [State.closedTicks, he, hp]

theorem State.closedTicks_of_open {s : State} (hc : s.cmdReady = true) : s.closedTicks = 0 := by
  obtain ⟨he, hp⟩ := s.cmdReady_iff.1 hc
  simp [State.closedTicks, he, hp]

/-- The longest wait, with three extra pulses: two dispatches and 54 ticks of conversion. -/
theorem State.closedTicks_le (s : State) : s.closedTicks ≤ 56 := by
  have hpending := s.pending.isLt
  cases hc : s.cmdReady with
  | true => simp [State.closedTicks_of_open hc]
  | false =>
    rcases State.closed_cases hc with he | he | ⟨he, hp⟩
    · rw [State.closedTicks_of_high he]
      omega
    · rw [State.closedTicks_of_low he]
      omega
    · rw [State.closedTicks_of_event he hp]
      split <;> omega

/-- A dispatch on a low line starts the conversion. On a high line it starts nothing, and is followed by another only if
it records an edge itself (R173): then the line was low before it, and will not have been before the next. -/
theorem closedTicks_lt_of_dispatch {s t : State} (hr : s.now.rstN = true) (he : s.eng = .idle) (hp : s.evtPend = true)
    (h : step s = .next t) : t.closedTicks < 2 * (24 + s.pending.toNat) + (if s.doutPrev then 1 else 2) := by
  cases hd : s.now.dout with
  | false =>
    rw [step_of_dispatch_low hr he hp hd] at h
    cases h
    have hstart : s.handlerStart.closedTicks = 2 * (24 + s.pending.toNat) := State.closedTicks_of_high rfl
    rw [hstart]
    split <;> omega
  | true =>
    have hprev : t.doutPrev = true := (step_doutPrev hr h).trans hd
    have hlatch := step_evtPend_iff hr h
    rw [step_of_dispatch hr he hp, State.handlerEntry_of_high (s := beginTick s) hd, Host.Outcome.next.injEq] at h
    have hidle : t.eng = .idle := h ▸ he
    have hpending : t.pending = s.pending := h ▸ rfl
    cases hp' : t.evtPend with
    | false =>
      rw [State.closedTicks_of_open (t.cmdReady_iff.2 ⟨hidle, hp'⟩)]
      omega
    | true =>
      have hrise : s.doutPrev = false := by
        obtain ⟨-, ⟨-, hedge⟩ | ⟨-, hother⟩⟩ := hlatch.1 hp'
        · exact Bool.eq_false_iff.2 (hd ▸ hedge.symm)
        · exact absurd ((activity_run_iff he _).2 (.inl ⟨hp, rfl⟩)) hother
      rw [State.closedTicks_of_event hidle hp', hpending, hprev, hrise]
      simp

/-- A tick that begins with the port closed brings it nearer to open. -/
theorem exists_step_closedTicks_lt {s : State} (h : Inv s) (hr : s.now.rstN = true) (hc : s.cmdReady = false) :
    ∃ t, step s = .next t ∧ t.closedTicks < s.closedTicks := by
  rcases State.closed_cases hc with he | he | ⟨he, hp⟩
  · have hpulse := h.pulse_le (by simp [he])
    refine ⟨_, step_of_high hr he, ?_⟩
    rw [State.closedTicks_of_high he, State.closedTicks_of_low rfl]
    show 2 * (24 + s.pending.toNat - s.pulse.toNat) - 1 < _
    omega
  · have hpulse := h.pulse_le (by simp [he])
    rw [State.closedTicks_of_low he]
    rcases Nat.lt_or_ge (s.pulse.toNat + 1) (24 + s.pending.toNat) with hnext | hlast
    · refine ⟨_, step_of_nextPulse hr he hnext, ?_⟩
      have hnextPulse : (s.pulse + 1).toNat = s.pulse.toNat + 1 := by bv_omega
      rw [State.closedTicks_of_high rfl]
      show 2 * (24 + s.pending.toNat - (s.pulse + 1).toNat) < _
      omega
    · have hnone : s.evtPend = false := Bool.eq_false_iff.2 fun hp => by
        simpa [he] using (h.evt_pend_masked hp).2
      obtain ⟨t, hstep, hopen, -⟩ := finishCommitsAndDelivers s hr (s.finishing_iff.2 ⟨he, hlast⟩)
      refine ⟨t, hstep, ?_⟩
      rw [State.closedTicks_of_open (hopen hnone)]
      omega
  · have hstep := step_of_dispatch hr he hp
    rw [State.closedTicks_of_event he hp]
    exact ⟨_, hstep, closedTicks_lt_of_dispatch hr he hp hstep⟩

theorem accepts_of_held {s : State} {w : CmdWord} {n : Nat} (h : HoldsCommand n w s) (hr : OutOfReset (n + 1) s)
    (hc : s.cmdReady = true) : Accepts s (decodeWord w) := by
  obtain ⟨hv, hw⟩ := h 0 (Nat.zero_le n)
  exact ⟨hr 0 n.succ_pos, hv, hc, congrArg decodeWord hw⟩

/-- A command that is held until the port opens is accepted then. -/
theorem held_command_accepted {n : Nat} {w : CmdWord} {s : State} (h : Inv s) (hn : s.closedTicks ≤ n)
    (hheld : HoldsCommand n w s) (hr : OutOfReset (n + 1) s) :
    ∃ k ≤ n, ∃ t, ticks k s = .next t ∧ Accepts t (decodeWord w) ∧
      ∀ j < k, ∃ u, ticks j s = .next u ∧ u.cmdReady = false := by
  induction n using Nat.strong_induction_on generalizing s with
  | h n ih =>
    cases hc : s.cmdReady with
    | true => exact ⟨0, Nat.zero_le n, s, rfl, accepts_of_held hheld hr hc, nofun⟩
    | false =>
      obtain ⟨t, hstep, hlt⟩ := exists_step_closedTicks_lt h (hr 0 n.succ_pos) hc
      obtain ⟨m, rfl⟩ : ∃ m, n = m + 1 := ⟨n - 1, by omega⟩
      have hin := step_inputAt hstep
      obtain ⟨k, hk, u, hrun, hacc, hclosed⟩ := ih m (by omega) (stepKeepsTheInvariants s t h hstep) (by omega)
        (fun j hj => hin j ▸ hheld (j + 1) (by omega)) (fun j hj => hin j ▸ hr (j + 1) (by omega))
      refine ⟨k + 1, by omega, u, (ticks_succ hstep k).trans hrun, hacc, fun j hj => ?_⟩
      cases j with
      | zero => exact ⟨s, rfl, hc⟩
      | succ j => exact ticks_succ hstep j ▸ hclosed j (by omega)

/-- Settles O55: whatever it waits for, the port is closed for at most 56 ticks. -/
theorem heldCommandIsAcceptedWithin56Ticks : Obligations.HeldCommandIsAcceptedWithin56Ticks :=
  fun _ s h => held_command_accepted h s.closedTicks_le

end Sys2Proof.Machine
end

section
/-! SUPPORT. The proof about exceptions (`60_exceptions.md`): there are none, every operation and every tick leaves a next
state (R200). -/

namespace Sys2Proof.Machine

/-- Every operation leaves a next state: `READ` in each of its three cases (R128), the others without looking. -/
theorem exec_exists_next (i : Instr) (s : State) : ∃ t, exec i s = .next t := by
  cases i with
  | read a => rcases exec_read_cases a s with ⟨-, e⟩ | ⟨-, -, e⟩ | ⟨-, -, e⟩ <;> exact ⟨_, e⟩
  | _ => exact ⟨_, rfl⟩

/-- Every tick leaves a next state: one case for the reset and one for each row of the table of activities (R180, R181). -/
theorem step_exists_next (s : State) : ∃ t, step s = .next t := by
  cases hr : s.now.rstN with
  | false => exact ⟨_, step_of_reset hr⟩
  | true =>
    cases he : s.eng with
    | high => exact ⟨_, step_of_high hr he⟩
    | low => exact ⟨_, step_of_low hr he⟩
    | idle =>
      cases hp : s.evtPend with
      | true => exact ⟨_, step_of_dispatch hr he hp⟩
      | false =>
        cases hv : s.now.cmdValid with
        | false =>
          obtain ⟨-, -, -, hnothing⟩ := stepRunsTheOtherActivities s hr
          exact ⟨_, hnothing he hp hv⟩
        | true =>
          obtain ⟨u, hx⟩ := exec_exists_next (decodeWord s.now.cmdWord) (beginTick s)
          exact ⟨_, step_of_accepts ⟨hr, hv, s.cmdReady_iff.2 ⟨he, hp⟩, rfl⟩ hx⟩

/-- Settles O9: the operations by their constructors, the ticks by their activities. -/
theorem everyTickHasANextState : Obligations.EveryTickHasANextState := ⟨exec_exists_next, step_exists_next⟩

end Sys2Proof.Machine
end

section
/-! SUPPORT. The proofs about the reset and the hazards (`70_reset_and_hazards.md`): the table of the reset state (R230),
the wait after `POWER_DOWN` (R262), and how often the clock line rises in a conversion (R73, R253). -/

namespace Sys2Proof.Machine

/-! ## The reset (R230) -/

/-- Settles O1: the tick is the hardware reset, which keeps the storage; the table is read off the reset state. -/
theorem resetGivesTheTableState : Obligations.ResetGivesTheTableState := by
  refine ⟨fun s hr => ⟨hardReset s, step_of_reset hr, rfl⟩, ?registers, ?outputs, fun _ => rfl⟩
  case registers => exact ⟨rfl, rfl, rfl, rfl, rfl, rfl, rfl, rfl, rfl, rfl, rfl, rfl, rfl, rfl, rfl, rfl⟩
  case outputs => exact ⟨rfl, rfl, rfl⟩

/-! ## The wait after `POWER_DOWN` (R262) -/

/-- The ticks to wait are the least number of ticks that last 60 microseconds. -/
theorem powerDownTicks_le_iff {tickNs : Nat} (h : 0 < tickNs) (n : Nat) :
    powerDownTicks tickNs ≤ n ↔ 60000 ≤ n * tickNs := by
  rw [powerDownTicks, ← Nat.ceilDiv_eq_add_pred_div, ceilDiv_le_iff_le_mul h, Nat.mul_comm]

/-- Settles O48: the least number suffices, one fewer does not, and one tick is shorter than 50 microseconds. -/
theorem powerDownWaitIsLongEnough : Obligations.PowerDownWaitIsLongEnough := by
  rintro tickNs minLowNs ⟨hshort, hsettle, -⟩
  have hle := powerDownTicks_le_iff (show 0 < tickNs by omega)
  have htwo : 2 ≤ powerDownTicks tickNs := by
    by_contra hlt
    have := (hle 1).1 (by omega)
    omega
  refine ⟨(hle _).1 le_rfl, ?fewer, htwo⟩
  case fewer =>
    by_contra hlong
    have := (hle _).2 (Nat.le_of_not_lt hlong)
    omega

/-! ## The rising edges of a conversion (R73, R253) -/

theorem risingEdges_succ {s t : State} (h : step s = .next t) (k : Nat) :
    risingEdges (k + 1) s = (if s.sck = false ∧ t.sck = true then 1 else 0) + risingEdges k t := by
  simp [risingEdges, h]

/-- A tick that starts a conversion leads to the first of its bit-clock sequence, whoever starts it (R92). -/
theorem step_of_startsConversion {s : State} (h : s.startsConversion = true) :
    ∃ t, step s = .next t ∧ AtConversionStart t ∧ t.pending = s.pending := by
  obtain ⟨hr, hd, ha | ⟨a, ha, hc⟩⟩ := State.startsConversion_cases h
  · refine ⟨s.handlerStart, ?_, s.handlerStart_atConversionStart, rfl⟩
    rw [step_of_activity_run hr ha, exec_handler, State.handlerEntry_of_low (s := beginTick s) hd]
    rfl
  · refine ⟨s.readStart, ?_, s.readStart_atConversionStart, rfl⟩
    rw [step_of_activity_run hr ha, exec_read_of_empty_low a (s := beginTick s) hc hd]
    rfl

theorem MidConversion.sck_eq {s u : State} {k : Nat} (h : MidConversion s k u) : u.sck = decide (k % 2 = 0) := by
  rcases Nat.mod_two_eq_zero_or_one k with hk | hk
  · simp [h.high hk, hk]
  · simp [h.low hk, hk]

/-- Within the `n` ticks that a conversion still takes, the clock line rises at the end of every low tick but the last. -/
theorem MidConversion.risingEdges_eq {s u : State} {k n : Nat} (h : MidConversion s k u)
    (hr : OutOfReset (2 * (24 + s.pending.toNat)) s) (hn : k + n = 2 * (24 + s.pending.toNat)) :
    risingEdges n u = (n - 1) / 2 := by
  induction n generalizing k u with
  | zero => rfl
  | succ n ih =>
    have hreset : (s.inputAt k).rstN = true := hr k (by omega)
    rcases Nat.eq_zero_or_pos n with rfl | hpos
    · obtain ⟨-, hsck, -⟩ := convFinish_engine_frame (beginTick u)
      rw [risingEdges_succ (step_of_finishing (h.now ▸ hreset) (h.finishing hn)), endTick_sck, hsck, beginTick_sck,
        h.sck_eq]
      simp [risingEdges]
    · obtain ⟨v, hstep, hv⟩ := h.succ hreset (by omega)
      rw [risingEdges_succ hstep, ih hv (by omega), h.sck_eq, hv.sck_eq]
      simp only [decide_eq_false_iff_not, decide_eq_true_eq]
      split <;> omega

/-- Settles O51: the starting tick raises the line unless it is high already, and the conversion raises it before each
pulse but the first. -/
theorem risingEdgesOfAConversion : Obligations.RisingEdgesOfAConversion := by
  intro s hs hr
  obtain ⟨t, hstep, hstart, hpending⟩ := step_of_startsConversion hs
  have hrest : OutOfReset (2 * (24 + t.pending.toNat)) t := fun j hj => by
    rw [step_inputAt hstep]
    exact hr _ (by rw [hpending] at hj; omega)
  have hedges := (MidConversion.start hstart).risingEdges_eq hrest (Nat.zero_add _)
  obtain ⟨-, -, -, hsck⟩ := hstart
  have hhazard : s.powerDownHazard = s.sck := by simp [State.powerDownHazard, hs]
  rw [Nat.add_comm 1, risingEdges_succ hstep, hsck, ← hpending, hedges, hhazard]
  refine ⟨fun hlow => ?raised, fun hhigh => ?held⟩
  case raised => rw [if_pos ⟨hlow, rfl⟩]; omega
  case held => rw [if_neg (by simp [hhigh])]; omega

end Sys2Proof.Machine
end
